-- ==== Sys2Proof/Word.lean ====
section
/-! DEFINITION. The word types of the engine: the widths of 00_scope.md R8 and R9. -/

namespace Sys2Proof

/-- A host-visible register, a register access, a command word: REG_W = 32 (R9). -/
abbrev Word := BitVec 32

/-- A Block or a Key: BLOCK_W = KEY_W = 64 (R8). -/
abbrev Block := BitVec 64

/-- A half-block: HALF_W = 32 (R8). -/
abbrev Half := BitVec 32

/-- An expanded half: EXP_W = 48 (R8). -/
abbrev Expanded := BitVec 48

/-- A round subkey: SUBKEY_W = 48 (R8). -/
abbrev Subkey := BitVec 48

/-- The PC1 output: PC1_W = 56 (R8). -/
abbrev KeyBits := BitVec 56

/-- A key half C or D: CD_W = 28 (R8). -/
abbrev KeyHalf := BitVec 28

end Sys2Proof
end

