-- ==== Sys2Proof/Syntax.lean ====
section
/-! DEFINITION. The commands of 30_encoding.md R92: one constructor for each row of opcode_table.json. -/

namespace Sys2Proof

/-- A command (30_encoding.md R92). P and WD are used as the integers they encode (R91), V as a single bit. -/
inductive Instr where
  /-- NOP (46_control_and_host_access.md R260) -/
  | nop
  /-- ENCRYPT (45_feistel_driver.md R242) -/
  | encrypt
  /-- KSCHED (44_key_schedule.md R220) -/
  | ksched
  /-- CLEAR (46_control_and_host_access.md R261) -/
  | clear
  /-- GETBIT: position P, width WD (40_bit_utilities.md R124) -/
  | getbit (p wd : Nat)
  /-- SETBIT: position P, width WD, value V (40_bit_utilities.md R125) -/
  | setbit (p wd : Nat) (v : Bool)
  /-- PERMUTE with table IP (41_permutation.md R148) -/
  | permuteIp
  /-- PERMUTE with table FP (41_permutation.md R148) -/
  | permuteFp
  /-- PERMUTE with table PC1 (41_permutation.md R148) -/
  | permutePc1
  /-- PERMUTE with table PC2 (41_permutation.md R148) -/
  | permutePc2
  /-- EXPAND (42_expansion_substitution_straight.md R173) -/
  | expand
  /-- SUBST (42_expansion_substitution_straight.md R174) -/
  | subst
  /-- SPERM (42_expansion_substitution_straight.md R175) -/
  | sperm
  /-- MIX48 with the triple in SEG (43_xo_mixing.md R192) -/
  | mix48Seg
  /-- MIX48 with the triple in SEGP (43_xo_mixing.md R192) -/
  | mix48Segp
  /-- MIX32 with the triple in SEG (43_xo_mixing.md R193) -/
  | mix32Seg
  /-- MIX32 with the triple in SEGP (43_xo_mixing.md R193) -/
  | mix32Segp
deriving DecidableEq, Repr

end Sys2Proof
end

