-- ==== Sys2Proof/WellFormed.lean ====
section
/-! DEFINITION. Which commands have an encoding: the widths of the argument fields of 30_encoding.md R90. -/

namespace Sys2Proof

/-- P is an 8-bit field (R90). -/
abbrev fitsP (p : Nat) : Prop := p < 256

/-- WD is a 7-bit field (R90). -/
abbrev fitsWd (wd : Nat) : Prop := wd < 128

/-- A command is well formed when its arguments fit their fields. Every such value of P and WD is a legal encoding of
GETBIT and SETBIT (R95): the range 1 ≤ p ≤ W ≤ 64 is checked when the command is written, not here. -/
def Instr.wf : Instr → Bool
  | .nop => true
  | .encrypt => true
  | .ksched => true
  | .clear => true
  | .getbit p wd => decide (fitsP p) && decide (fitsWd wd)
  | .setbit p wd _ => decide (fitsP p) && decide (fitsWd wd)
  | .permuteIp => true
  | .permuteFp => true
  | .permutePc1 => true
  | .permutePc2 => true
  | .expand => true
  | .subst => true
  | .sperm => true
  | .mix48Seg => true
  | .mix48Segp => true
  | .mix32Seg => true
  | .mix32Segp => true

/-- The command has an encoding. -/
abbrev WellFormed (i : Instr) : Prop := i.wf = true

end Sys2Proof
end

