-- ==== Sys2Proof/Decode.lean ====
section
/-! DEFINITION. The command word of 30_encoding.md: its fields (R90), the opcode map (R92), the decoder with the
reason for every word it refuses (R94), the encoder, and the table's numbering of bits for the host. -/

namespace Sys2Proof

/-! ### The fields of a command word (R90) -/

/-- OPC, bits [7:0]. -/
def fieldOpc (w : Word) : BitVec 8 := w.extractLsb' 0 8

/-- P, bits [15:8]. -/
def fieldP (w : Word) : BitVec 8 := w.extractLsb' 8 8

/-- WD, bits [22:16]. -/
def fieldWd (w : Word) : BitVec 7 := w.extractLsb' 16 7

/-- The reserved bit 23. -/
def fieldReserved23 (w : Word) : BitVec 1 := w.extractLsb' 23 1

/-- V, bit 24. -/
def fieldV (w : Word) : BitVec 1 := w.extractLsb' 24 1

/-- The reserved bits [31:25]. -/
def fieldReservedTop (w : Word) : BitVec 7 := w.extractLsb' 25 7

/-! ### The decoder -/

/-- Why a word is illegal: the cases of R94, in its order. Every one of them is the one error ILLEGAL_CMD of the hardware
(60_exceptions.md R283); telling them apart is the model's (log 14). -/
inductive DecodeReject where
  /-- OPC outside the assigned values -/
  | unassignedOpcode
  /-- bit 23 or one of bits [31:25] is set -/
  | reservedBits
  /-- V = 1 with an operation code other than SETBIT's -/
  | strayV
  /-- WD ≠ 0 with an operation code other than GETBIT's and SETBIT's -/
  | strayWd
  /-- P ≠ 0 with an operation code that has no argument P -/
  | strayP
  /-- the selector P of PERMUTE is above 3, of MIX48 or MIX32 above 1 -/
  | selectorRange
deriving DecidableEq, Repr

/-- A command with no argument: V, WD and P must all be 0 (R90, R94). -/
def decodePlain (w : Word) (i : Instr) : Except DecodeReject Instr :=
  if fieldV w ≠ 0 then .error .strayV
  else if fieldWd w ≠ 0 then .error .strayWd
  else if fieldP w ≠ 0 then .error .strayP
  else .ok i

/-- A command whose P selects one of several (R99): V and WD must be 0 and P a position of the list. -/
def decodeSelector (w : Word) (choices : List Instr) : Except DecodeReject Instr :=
  if fieldV w ≠ 0 then .error .strayV
  else if fieldWd w ≠ 0 then .error .strayWd
  else match choices[(fieldP w).toNat]? with
    | some i => .ok i
    | none => .error .selectorRange

/-- The command that a 32-bit word selects (R92), or why it selects none (R94). -/
def decode (w : Word) : Except DecodeReject Instr :=
  if fieldReserved23 w ≠ 0 ∨ fieldReservedTop w ≠ 0 then .error .reservedBits
  else match (fieldOpc w).toNat with
    | 0x00 => decodePlain w .nop
    | 0x01 => decodePlain w .encrypt
    | 0x02 => decodePlain w .ksched
    | 0x03 => decodePlain w .clear
    | 0x10 => if fieldV w ≠ 0 then .error .strayV else .ok (.getbit (fieldP w).toNat (fieldWd w).toNat)
    | 0x11 => .ok (.setbit (fieldP w).toNat (fieldWd w).toNat (fieldV w = 1))
    | 0x12 => decodeSelector w [.permuteIp, .permuteFp, .permutePc1, .permutePc2]
    | 0x13 => decodePlain w .expand
    | 0x14 => decodePlain w .subst
    | 0x15 => decodePlain w .sperm
    | 0x16 => decodeSelector w [.mix48Seg, .mix48Segp]
    | 0x17 => decodeSelector w [.mix32Seg, .mix32Segp]
    | _ => .error .unassignedOpcode

/-! ### The encoder -/

/-- The command word with the given fields and its reserved bits 0 (R90). -/
def commandWord (opc p : BitVec 8) (wd : BitVec 7) (v : Bool) : Word :=
  0#7 ++ BitVec.ofBool v ++ 0#1 ++ wd ++ p ++ opc

/-- The word of a well-formed command (R92). -/
def encode : Instr → Word
  | .nop => commandWord 0x00 0 0 false
  | .encrypt => commandWord 0x01 0 0 false
  | .ksched => commandWord 0x02 0 0 false
  | .clear => commandWord 0x03 0 0 false
  | .getbit p wd => commandWord 0x10 (BitVec.ofNat 8 p) (BitVec.ofNat 7 wd) false
  | .setbit p wd v => commandWord 0x11 (BitVec.ofNat 8 p) (BitVec.ofNat 7 wd) v
  | .permuteIp => commandWord 0x12 0 0 false
  | .permuteFp => commandWord 0x12 1 0 false
  | .permutePc1 => commandWord 0x12 2 0 false
  | .permutePc2 => commandWord 0x12 3 0 false
  | .expand => commandWord 0x13 0 0 false
  | .subst => commandWord 0x14 0 0 false
  | .sperm => commandWord 0x15 0 0 false
  | .mix48Seg => commandWord 0x16 0 0 false
  | .mix48Segp => commandWord 0x16 1 0 false
  | .mix32Seg => commandWord 0x17 0 0 false
  | .mix32Segp => commandWord 0x17 1 0 false

/-! ### The opcode map as the spec prints it (R92) -/

/-- One row of R92: a word w selects it when w and mask = match. -/
structure OpcodeRow where
  mnemonic : String
  matchBits : Word
  maskBits : Word
deriving DecidableEq, Repr

/-- The word selects the row (R92). -/
def OpcodeRow.selects (row : OpcodeRow) (w : Word) : Bool := w &&& row.maskBits == row.matchBits

/-- The seventeen rows of R92, in its order. -/
def opcodeRows : List OpcodeRow :=
  [⟨"NOP", 0x00000000, 0xFFFFFFFF⟩,
   ⟨"ENCRYPT", 0x00000001, 0xFFFFFFFF⟩,
   ⟨"KSCHED", 0x00000002, 0xFFFFFFFF⟩,
   ⟨"CLEAR", 0x00000003, 0xFFFFFFFF⟩,
   ⟨"GETBIT", 0x00000010, 0xFF8000FF⟩,
   ⟨"SETBIT", 0x00000011, 0xFE8000FF⟩,
   ⟨"PERMUTE.IP", 0x00000012, 0xFFFFFFFF⟩,
   ⟨"PERMUTE.FP", 0x00000112, 0xFFFFFFFF⟩,
   ⟨"PERMUTE.PC1", 0x00000212, 0xFFFFFFFF⟩,
   ⟨"PERMUTE.PC2", 0x00000312, 0xFFFFFFFF⟩,
   ⟨"EXPAND", 0x00000013, 0xFFFFFFFF⟩,
   ⟨"SUBST", 0x00000014, 0xFFFFFFFF⟩,
   ⟨"SPERM", 0x00000015, 0xFFFFFFFF⟩,
   ⟨"MIX48.SEG", 0x00000016, 0xFFFFFFFF⟩,
   ⟨"MIX48.SEGP", 0x00000116, 0xFFFFFFFF⟩,
   ⟨"MIX32.SEG", 0x00000017, 0xFFFFFFFF⟩,
   ⟨"MIX32.SEGP", 0x00000117, 0xFFFFFFFF⟩]

/-- The mnemonic of a command's row. -/
def Instr.mnemonic : Instr → String
  | .nop => "NOP"
  | .encrypt => "ENCRYPT"
  | .ksched => "KSCHED"
  | .clear => "CLEAR"
  | .getbit _ _ => "GETBIT"
  | .setbit _ _ _ => "SETBIT"
  | .permuteIp => "PERMUTE.IP"
  | .permuteFp => "PERMUTE.FP"
  | .permutePc1 => "PERMUTE.PC1"
  | .permutePc2 => "PERMUTE.PC2"
  | .expand => "EXPAND"
  | .subst => "SUBST"
  | .sperm => "SPERM"
  | .mix48Seg => "MIX48.SEG"
  | .mix48Segp => "MIX48.SEGP"
  | .mix32Seg => "MIX32.SEG"
  | .mix32Segp => "MIX32.SEGP"

/-! ### The host's numbering of an instruction's bits -/

/-- The command word whose bits are w, all bits from nbits up being 0. A command is one 32-bit word (R90), written
whole (20_memory.md R62), so no byte order enters. -/
def tableWord (nbits w : Nat) : Word := BitVec.ofNat 32 (w % 2 ^ nbits)

/-- What the decoder reads from the instruction of the opcode table whose bits are w. -/
def decodeTableWord (nbits w : Nat) : Option Instr :=
  match decode (tableWord nbits w) with
  | .ok i => some i
  | .error _ => none

end Sys2Proof
end

