-- ==== Sys2Proof/Machine/State.lean ====
section
/-! DEFINITION. The state of the engine (10_state.md R20), the events that act on it, and its value after reset (R43). -/

namespace Sys2Proof.Machine

/-- PHASE: where the sequencer is (10_state.md R26). -/
inductive Phase where
  | idle
  | keySched
  | initial
  | round
  | finalSwap
  | exec
deriving DecidableEq, Repr

/-- STATUS.ERRCODE (60_exceptions.md R280). Codes 6 to 15 are never produced (93_implementation_defined.md U9). -/
inductive ErrCode where
  /-- 0: no error recorded -/
  | none
  /-- 1: the triple in SEG does not sum to 48 -/
  | invalidSeg
  /-- 2: the triple in SEGP does not sum to 48 -/
  | invalidSegp
  /-- 3: the triple to be scaled yields a negative length -/
  | invalidSeg32
  /-- 4: the word written to CMD is no command -/
  | illegalCmd
  /-- 5: width or position of GETBIT or SETBIT out of range -/
  | badBitpos
deriving DecidableEq, Repr

/-- The fifteen host-visible registers (20_memory.md R61). -/
inductive HostReg where
  | cmd
  | status
  | keyHi
  | keyLo
  | blkHi
  | blkLo
  | opbHi
  | opbLo
  | seg
  | segp
  | outHi
  | outLo
  | skidx
  | skHi
  | skLo
deriving DecidableEq, Repr

/-- One indivisible event (20_memory.md R73, 70_reset_and_hazards.md R320). The byte offset of an access is any natural
number (log 9). -/
inductive Event where
  /-- the host's RegRead(off) (R62) -/
  | hostRead (off : Nat)
  /-- the host's RegWrite(off, v) (R62) -/
  | hostWrite (off : Nat) (v : Word)
  /-- the engine's turn: its next step if it is busy, nothing if it is idle (R26) -/
  | engine
  /-- the reset input (R320) -/
  | reset
deriving DecidableEq, Repr

/-- What one host access returned (20_memory.md R62). -/
inductive Response where
  /-- ack = OK of a RegWrite -/
  | ok
  /-- ack = OK of a RegRead, with the value read -/
  | data (v : Word)
  /-- ack = ERROR: no value, also of a read (R66) -/
  | error
deriving DecidableEq, Repr

/-- The state of one engine instance: the elements of 10_state.md R20 and, last, two fields of the model's own. CMD has no
storage (R31) and STATUS.BUSY is no independent bit (R33), so neither is a field. -/
structure State where
  /-- KEY (R21) -/
  key : Block
  /-- BLK (R22) -/
  blk : Block
  /-- OPB (R23) -/
  opb : Block
  /-- OUT (R24) -/
  out : Block
  /-- L (R25) -/
  l : Half
  /-- R (R25) -/
  r : Half
  /-- SK[0..15] (R28) -/
  sk : Vector Subkey 16
  /-- SKIDX (R37) -/
  skidx : BitVec 4
  /-- the stored bits [23:0] of SEG (R29) -/
  seg : BitVec 24
  /-- the stored bits [23:0] of SEGP (R30) -/
  segp : BitVec 24
  /-- STATUS.DONE (R32) -/
  done : Bool
  /-- STATUS.ERR (R32) -/
  err : Bool
  /-- STATUS.SKVALID (R32, R35) -/
  skValid : Bool
  /-- STATUS.BUSYERR (R32, R36) -/
  busyErr : Bool
  /-- STATUS.ERRCODE (R32) -/
  errCode : ErrCode
  /-- PHASE (R26) -/
  phase : Phase
  /-- r, the round index (R26) -/
  rIdx : BitVec 4
  /-- OP, the latched command word (R27) -/
  op : Word
  /-- the MODEL's own field (log 1): the events still to happen, the next one first -/
  inputs : List Event
  /-- the MODEL's own field (log 2): what the host's accesses returned, the latest first -/
  responses : List Response
deriving DecidableEq, Repr

/-- Why a step stops. Every fault stands for a state that no run from reset reaches, where the spec leaves a function
undefined and forbids giving it a value (log 6). Stopping there is safe: nothing can be proved of a value. -/
inductive Fault where
  /-- raised by the engine's turn: OP, while busy, holds a word that is no command (46_control_and_host_access.md R265:
  only words that pass Check are latched). Safe. -/
  | latchedWordIllegal
  /-- raised by ENCRYPT and KSCHED in phase Exec, which they never enter (R264, R265). Safe. -/
  | noExecStep
  /-- raised by GETBIT and SETBIT in phase Exec with a width or position out of range, which Check refuses
  (40_bit_utilities.md R122). Safe. -/
  | bitPositionOutside
  /-- raised by MIX48, MIX32 and the Round phase with a triple outside the domain of Mix48 or Mix32, which Check refuses
  (43_xo_mixing.md R186, R188). Safe. -/
  | mixOutsideDomain
deriving DecidableEq, Repr

/-- Why an instruction is refused. -/
inductive Refusal where
  /-- raised by an arm of exec for an instruction that has no meaning yet. Safe: it stops. No arm raises it. -/
  | notModelled (mnemonic : String)
deriving DecidableEq, Repr

/-- What a step of this machine answers. -/
abbrev Result := Host.Outcome State Fault Refusal

/-- The machine right after reset, every element at the value of 10_state.md R43, with no event pending (log 1) and
nothing returned yet (log 2). -/
def State.reset : State where
  key := 0
  blk := 0
  opb := 0
  out := 0
  l := 0
  r := 0
  sk := Vector.replicate 16 0
  skidx := 0
  seg := 0x101010
  segp := 0x101010
  done := false
  err := false
  skValid := false
  busyErr := false
  errCode := .none
  phase := .idle
  rIdx := 0
  op := 0
  inputs := []
  responses := []

end Sys2Proof.Machine
end

