-- ==== Sys2Proof/Machine/Flags.lean ====
section
/-! DEFINITION. STATUS (10_state.md R32 to R36): the word it reads as, and what acceptance, completion and rejection do to
its flags. -/

namespace Sys2Proof.Machine

/-- STATUS.BUSY = 1 exactly when PHASE ≠ Idle (R33). -/
def busy (s : State) : Bool := s.phase != .idle

/-- The 4-bit code of an error (60_exceptions.md R280). -/
def errCodeBits : ErrCode → BitVec 4
  | .none => 0
  | .invalidSeg => 1
  | .invalidSegp => 2
  | .invalidSeg32 => 3
  | .illegalCmd => 4
  | .badBitpos => 5

/-- The value of STATUS: BUSY [0], DONE [1], ERR [2], SKVALID [3], BUSYERR [4], ERRCODE [11:8], the rest 0 (R32, R263). -/
def statusWord (s : State) : Word :=
  0#20 ++ errCodeBits s.errCode ++ 0#3 ++ BitVec.ofBool s.busyErr ++ BitVec.ofBool s.skValid ++
    BitVec.ofBool s.err ++ BitVec.ofBool s.done ++ BitVec.ofBool (busy s)

/-- The flags that every accepted command clears: DONE, ERR, ERRCODE (46_control_and_host_access.md R264). -/
def clearOutcome (s : State) : State := { s with done := false, err := false, errCode := .none }

/-- Reject(code): ERR and ERRCODE set, DONE cleared, nothing else (60_exceptions.md R288). This is the engine's analogue of
taking an exception. -/
def reject (code : ErrCode) (s : State) : State := { s with err := true, errCode := code, done := false }

/-- Complete(): DONE set, PHASE Idle (R266). BUSY reads 0 from here on (R33). -/
def complete (s : State) : State := { s with done := true, phase := .idle }

/-- A host write dropped while busy sets BUSYERR (20_memory.md R71, 60_exceptions.md R285). -/
def noteDropped (s : State) : State := { s with busyErr := true }

/-- A write to STATUS clears BUSYERR when bit 4 of the value is 1 and does nothing else (R36, R68). -/
def writeStatus (v : Word) (s : State) : State :=
  { s with busyErr := if v.getLsbD 4 then false else s.busyErr }

end Sys2Proof.Machine
end

