-- ==== Sys2Proof/Config.lean ====
section
/-! DEFINITION. What the hardware fixes once: the parameters of 00_scope.md R8 and R9. -/

namespace Sys2Proof.Config

/-- SEGP_WIRED (R9, 45_feistel_driver.md R238): whether the 32-bit mixing site uses the secondary triple.
The spec's value for this hardware is 0 (92_eei_decisions.md D1). The functions of the model take it as an argument. -/
def segpWired : Bool := false

/-- ROUNDS (R8). -/
def rounds : Nat := 16

/-- SEG_TOTAL_48 (R8): what a supplied triple must sum to. -/
def segTotal48 : Nat := 48

/-- SEG_TOTAL_32 (R8): what a derived triple sums to. -/
def segTotal32 : Nat := 32

end Sys2Proof.Config
end

