-- ==== Sys2Proof/Machine/BitOrder.lean ====
section
/-! DEFINITION. The bit-order utilities of 40_bit_utilities.md (GetBit, SetBit), slices in the source numbering
(00_scope.md R10, R19) and the table-driven permutation of 41_permutation.md. -/

namespace Sys2Proof.Machine

/-- p is a position of a W-bit word in the source numbering (00_scope.md R10). -/
abbrev inWord (W p : Nat) : Prop := 1 ≤ p ∧ p ≤ W

/-- GetBit(x, W, p) = x⟨p⟩ = x[W − p], defined only for a position of the word (40_bit_utilities.md R120, R122). -/
def getBit {W : Nat} (x : BitVec W) (p : Nat) (h : inWord W p) : Bool :=
  x[W - p]'(Nat.sub_lt (Nat.lt_of_lt_of_le h.1 h.2) h.1)

/-- SetBit(x, W, p, v): the word with v at position p and x's bits elsewhere (40_bit_utilities.md R121, R122).
Position i + 1 of the result is given by index i. -/
def setBit {W : Nat} (x : BitVec W) (p : Nat) (v : Bool) (_h : inWord W p) : BitVec W :=
  BitVec.ofFnBE fun i : Fin W =>
    if i.val + 1 = p then v else getBit x (i.val + 1) ⟨Nat.succ_le_succ (Nat.zero_le _), i.isLt⟩

/-- The word of the len bits of x that follow its first skip bits: x⟨skip + 1 .. skip + len⟩ (00_scope.md R19). -/
def sourceSlice {W : Nat} (x : BitVec W) (skip len : Nat) : BitVec len :=
  x.extractLsb' (W - skip - len) len

/-- A permutation table with input width win and n entries, each a position of the input (41_permutation.md R140, R141). -/
structure PermTable (win n : Nat) where
  entries : List Nat
  length_eq : entries.length = n
  inRange : ∀ e ∈ entries, inWord win e

/-- table[i + 1], the entry of index i. -/
def PermTable.entry {win n : Nat} (t : PermTable win n) (i : Fin n) : Nat :=
  t.entries[i.val]'(t.length_eq.symm ▸ i.isLt)

theorem PermTable.entry_inWord {win n : Nat} (t : PermTable win n) (i : Fin n) : inWord win (t.entry i) :=
  t.inRange _ (List.getElem_mem _)

/-- Permute(x, Win, table): output bit i equals input bit table[i] (41_permutation.md R140). -/
def permute {win n : Nat} (x : BitVec win) (t : PermTable win n) : BitVec n :=
  BitVec.ofFnBE fun i : Fin n => getBit x (t.entry i) (t.entry_inWord i)

end Sys2Proof.Machine
end

