-- ==== Sys2Proof/Machine/Cipher.lean ====
section
/-! DEFINITION. The pure functions of the cipher: Expand, Substitute, Straight (42_expansion_substitution_straight.md),
the segmented mixing (43_xo_mixing.md), the key schedule (44_key_schedule.md), and the whole cipher
(45_feistel_driver.md section 1). -/

namespace Sys2Proof.Machine

/-! ### The fixed stages of a round -/

/-- Expand(r) = Permute(r, 32, E) (R160). -/
def expand (x : Half) : Expanded := permute x tableE

/-- The lookup of one 6-bit group g: row g⟨1⟩ g⟨6⟩, column g⟨2..5⟩ (R162). -/
def substGroup (b : SBox) (g : BitVec 6) : BitVec 4 :=
  b.lookup (sourceSlice g 0 1 ++ sourceSlice g 5 1) (sourceSlice g 1 4)

/-- Substitute(x): the k-th most significant group through the k-th box, o_1 most significant (R162). -/
def substitute (x : Expanded) : Half :=
  substGroup sbox1 (sourceSlice x 0 6) ++ substGroup sbox2 (sourceSlice x 6 6) ++
  substGroup sbox3 (sourceSlice x 12 6) ++ substGroup sbox4 (sourceSlice x 18 6) ++
  substGroup sbox5 (sourceSlice x 24 6) ++ substGroup sbox6 (sourceSlice x 30 6) ++
  substGroup sbox7 (sourceSlice x 36 6) ++ substGroup sbox8 (sourceSlice x 42 6)

/-- Straight(s) = Permute(s, 32, P) (R171). -/
def straight (x : Half) : Half := permute x tableP

/-! ### The segmented mixing -/

/-- Three segment lengths, top, middle, bottom, as mathematical integers (00_scope.md R13, 43_xo_mixing.md R181). -/
structure Triple where
  top : Int
  middle : Int
  bottom : Int
deriving DecidableEq, Repr

/-- The triple is a partition of W (R181). -/
abbrev isPartition (W : Nat) (t : Triple) : Prop :=
  0 ≤ t.top ∧ 0 ≤ t.middle ∧ 0 ≤ t.bottom ∧ t.top + t.middle + t.bottom = W

/-- Valid48 (R181). -/
abbrev valid48 (t : Triple) : Prop := isPartition Config.segTotal48 t

/-- Scale32, the derived 32-bit triple; the third length of the argument does not enter (R184). -/
def scale32 (t : Triple) : Triple :=
  let a := max 1 (t.top * 32 / 48)
  let b := max 1 (t.middle * 32 / 48)
  let c := 32 - a - b
  if c < 1 then ⟨a, 32 - a - 1, 1⟩ else ⟨a, b, c⟩

/-- Seg32OK: the derived middle length is not negative (R185). -/
abbrev seg32OK (t : Triple) : Prop := 0 ≤ (scale32 t).middle

/-- The domain of Mix32 (R186). -/
abbrev mix32Domain (t : Triple) : Prop := valid48 t ∧ seg32OK t

/-- The segment of len bits after the first skip bits of the exclusive-or, taken segment by segment (R182). -/
def segmentXor {W : Nat} (a b : BitVec W) (skip len : Nat) : BitVec len :=
  sourceSlice a skip len ^^^ sourceSlice b skip len

/-- MixW, the three-segment combine, defined only for a partition of W (R182, R188). -/
def mixW {W : Nat} (a b : BitVec W) (t : Triple) (h : isPartition W t) : BitVec W :=
  (segmentXor a b 0 t.top.toNat ++ segmentXor a b t.top.toNat t.middle.toNat ++
    segmentXor a b (t.top.toNat + t.middle.toNat) t.bottom.toNat).cast (by
      obtain ⟨h1, h2, h3, h4⟩ := h
      omega)

/-- Mix48, defined for Valid48 triples (R183). -/
def mix48 (a b : Expanded) (t : Triple) (h : valid48 t) : Expanded := mixW a b t h

/-- The derived triple of a triple in the domain of Mix32 is a partition of 32 (R185, R186). -/
theorem scale32_isPartition {t : Triple} (h : mix32Domain t) : isPartition 32 (scale32 t) := by
  obtain ⟨⟨h1, h2, h3, h4⟩, h5⟩ := h
  simp only [Config.segTotal48] at h4
  refine ⟨?_, h5, ?_, ?_⟩ <;> simp only [scale32] <;> split <;> (try simp only) <;> omega

/-- Mix32, on the scaled triple (R186). -/
def mix32 (a b : Half) (t : Triple) (h : mix32Domain t) : Half := mixW a b (scale32 t) (scale32_isPartition h)

/-! ### The key schedule -/

/-- rol28(x, n), the left rotation within 28 bits (44_key_schedule.md R213). -/
def rol28 (x : KeyHalf) (n : Nat) : KeyHalf := (x <<< n) ||| (x >>> (28 - n))

/-- C_init, the upper half of the PC1 output (R211). -/
def keyHalfC (k : Block) : KeyHalf := sourceSlice (permute k tablePC1) 0 28

/-- D_init, the lower half of the PC1 output (R211). -/
def keyHalfD (k : Block) : KeyHalf := sourceSlice (permute k tablePC1) 28 28

/-- The subkeys of the rounds whose rotation counts are listed, from the halves before the first of them: rotate, then
select by PC2 (R214). -/
def subkeysFrom (c d : KeyHalf) : List Nat → List Subkey
  | [] => []
  | n :: rest =>
    permute (rol28 c n ++ rol28 d n : KeyBits) tablePC2 :: subkeysFrom (rol28 c n) (rol28 d n) rest

theorem subkeysFrom_length (c d : KeyHalf) (ns : List Nat) : (subkeysFrom c d ns).length = ns.length := by
  induction ns generalizing c d with
  | nil => rfl
  | cons n rest ih => simp [subkeysFrom, ih]

/-- KeySchedule(K), the sixteen subkeys (R210 to R214). -/
def keySchedule (k : Block) : Vector Subkey 16 :=
  ⟨(subkeysFrom (keyHalfC k) (keyHalfD k) rotations).toArray, by
    rw [List.size_toArray, subkeysFrom_length]; rfl⟩

/-! ### The whole cipher -/

/-- Fround(Rh, k, s) = Straight(Substitute(Mix48(Expand(Rh), k, s))) (45_feistel_driver.md R239). -/
def fround (rh : Half) (k : Subkey) (s : Triple) (hs : valid48 s) : Half :=
  straight (substitute (mix48 (expand rh) k s hs))

/-- The two half-blocks (L, R). -/
structure Halves where
  l : Half
  r : Half
deriving DecidableEq, Repr

/-- One round: the new L is the previous R, the new R is Mix32(L, F) (R235, R244). -/
def feistelRound (k : Subkey) (s m : Triple) (hs : valid48 s) (hm : mix32Domain m) (x : Halves) : Halves :=
  ⟨x.r, mix32 x.l (fround x.r k s hs) m hm⟩

/-- L_0 and R_0: the upper and lower half of the initial permutation (R234, R244). -/
def initialHalves (pt : Block) : Halves :=
  ⟨sourceSlice (permute pt tableIP) 0 32, sourceSlice (permute pt tableIP) 32 32⟩

/-- The pair after the rounds whose subkeys are listed (R244). -/
def feistelRounds (s m : Triple) (hs : valid48 s) (hm : mix32Domain m) : List Subkey → Halves → Halves
  | [], x => x
  | k :: rest, x => feistelRounds s m hs hm rest (feistelRound k s m hs hm x)

/-- FP of R ‖ L (R236, R244). -/
def finalBlock (x : Halves) : Block := permute (x.r ++ x.l : Block) tableFP

/-- Encrypt(Pt, K, s, m), defined when both triples are valid and m scales (R230, R244). -/
def encrypt (pt k : Block) (s m : Triple) (hs : valid48 s) (hm : mix32Domain m) : Block :=
  finalBlock (feistelRounds s m hs hm (keySchedule k).toList (initialHalves pt))

end Sys2Proof.Machine
end

