-- ==== Sys2Proof/Machine/Operands.lean ====
section
/-! DEFINITION. The operand forms of 30_encoding.md section 4: the word each command works on, the segment triples, and
the alignment of results. -/

namespace Sys2Proof.Machine

/-- The W-bit word right-aligned in a 64-bit container: bits [W−1:0], the others ignored (00_scope.md R11, R97). -/
def rightWord (W : Nat) (c : Block) : BitVec W := c.extractLsb' 0 W

/-- The W-bit word left-aligned in a 64-bit container: bits [63:64−W], the others ignored (00_scope.md R11, R97). -/
def leftWord (W : Nat) (c : Block) : BitVec W := c.extractLsb' (64 - W) W

/-- A result of at most 64 bits right-aligned in 64 bits, all other bits 0 (R11, R97). -/
def rightAligned {W : Nat} (x : BitVec W) : Block := x.setWidth 64

/-- A result of at most 64 bits left-aligned in 64 bits, all other bits 0 (R11, R97). -/
def leftAligned {W : Nat} (x : BitVec W) : Block := x.setWidth 64 <<< (64 - W)

/-- The three lengths stored in SEG or SEGP, S1 the top one (10_state.md R29, R30; 30_encoding.md R98). -/
def tripleOf (v : BitVec 24) : Triple :=
  ⟨(v.extractLsb' 16 8).toNat, (v.extractLsb' 8 8).toNat, (v.extractLsb' 0 8).toNat⟩

/-- The primary triple s (45_feistel_driver.md R238). -/
def primaryTriple (s : State) : Triple := tripleOf s.seg

/-- The secondary triple. -/
def secondaryTriple (s : State) : Triple := tripleOf s.segp

/-- The triple m of the 32-bit site, for a value of the parameter SEGP_WIRED (45_feistel_driver.md R238). -/
def siteTriple (wired : Bool) (s : State) : Triple := if wired then secondaryTriple s else primaryTriple s

/-- The width and position of GETBIT and SETBIT are in range: 1 ≤ W ≤ 64 and 1 ≤ p ≤ W (30_encoding.md R100,
40_bit_utilities.md R126). -/
abbrev bitPositionOk (p wd : Nat) : Prop := (1 ≤ wd ∧ wd ≤ 64) ∧ inWord wd p

end Sys2Proof.Machine
end

