-- ==== Sys2Proof/Machine/Ops.lean ====
section
/-! DEFINITION. The operations every command shares: the validity checks (46_control_and_host_access.md R264 Check),
acceptance (R264), the phase steps (44_key_schedule.md R219, 45_feistel_driver.md R234 to R236), delivery of a result (R265,
R266), and the one transition of a command that puts them together. -/

namespace Sys2Proof.Machine

/-! ### The checks of a command write -/

/-- The first condition that holds of the pairs listed gives the code (R290: only the first failing check is reported). -/
def firstFailing : List (Bool × ErrCode) → Option ErrCode
  | [] => none
  | (fails, code) :: rest => if fails then some code else firstFailing rest

/-- Checks 2 to 4 of ENCRYPT, for a value of SEGP_WIRED (45_feistel_driver.md R232). -/
def checkEncrypt (wired : Bool) (s : State) : Option ErrCode :=
  firstFailing
    [(decide (¬ valid48 (primaryTriple s)), .invalidSeg),
     (decide (¬ valid48 (secondaryTriple s)), .invalidSegp),
     (decide (¬ seg32OK (siteTriple wired s)), .invalidSeg32)]

/-- Check 1 of MIX48 and MIX32 on a triple; the code says which register it came from (43_xo_mixing.md R191). -/
def checkMix48 (t : Triple) (code : ErrCode) : Option ErrCode :=
  firstFailing [(decide (¬ valid48 t), code)]

/-- Checks 1 and 2 of MIX32 on a triple (43_xo_mixing.md R191). -/
def checkMix32 (t : Triple) (code : ErrCode) : Option ErrCode :=
  firstFailing [(decide (¬ valid48 t), code), (decide (¬ seg32OK t), .invalidSeg32)]

/-- The range check of GETBIT and SETBIT (40_bit_utilities.md R126). -/
def checkBitPosition (p wd : Nat) : Option ErrCode :=
  firstFailing [(decide (¬ bitPositionOk p wd), .badBitpos)]

/-! ### Acceptance -/

/-- The operation codes that start at KeySched: ENCRYPT and KSCHED (R264). -/
def startsWithSchedule (w : Word) : Bool := fieldOpc w == 0x01 || fieldOpc w == 0x02

/-- Accept(w): DONE, ERR and ERRCODE cleared, the word latched, and the first phase entered, which makes BUSY 1; SKVALID
is cleared for ENCRYPT and KSCHED alone (R264). DEDUCED (log 16): a CLEAR accepted therefore leaves SKVALID as it is until its
Exec step, as 10_state.md R32 has it too, although 10_state.md R35 and 44_key_schedule.md R220 speak of CLEAR's acceptance. -/
def accept (w : Word) (s : State) : State :=
  { clearOutcome s with
    op := w
    skValid := if startsWithSchedule w then false else s.skValid
    phase := if startsWithSchedule w then .keySched else .exec }

/-- What the write of a legal command word does once its checks are made: reject with the first failing check's code, or
accept (R264). -/
def issue (i : Instr) (verdict : Option ErrCode) (s : State) : State :=
  match verdict with
  | some code => reject code s
  | none => accept (encode i) s

/-! ### The phase steps -/

/-- The step of phase KeySched: the whole subkey file from KEY, then on to Initial for ENCRYPT, or SKVALID and completion
for KSCHED (44_key_schedule.md R219). -/
def keySchedStep (s : State) : State :=
  if fieldOpc s.op = 0x01 then { s with sk := keySchedule s.key, phase := .initial }
  else complete { s with sk := keySchedule s.key, skValid := true }

/-- The step of phase Initial: L and R from IP of BLK, r = 0 (45_feistel_driver.md R234). -/
def initialStep (s : State) : State :=
  { s with l := (initialHalves s.blk).l, r := (initialHalves s.blk).r, rIdx := 0, phase := .round }

/-- SK[r], the subkey of the current round (44_key_schedule.md R216). -/
def currentSubkey (s : State) : Subkey := s.sk[s.rIdx.toNat]'s.rIdx.isLt

/-- What follows a round: the next r, or FinalSwap after r = 15 (45_feistel_driver.md R235). -/
def advanceRound (x : Halves) (s : State) : State :=
  { s with
    l := x.l
    r := x.r
    rIdx := if s.rIdx.toNat < 15 then s.rIdx + 1 else s.rIdx
    phase := if s.rIdx.toNat < 15 then s.phase else .finalSwap }

/-- The step of phase Round, for a value of SEGP_WIRED (45_feistel_driver.md R235). The triples were checked at
acceptance; outside the domain of the mixing functions there is no value (43_xo_mixing.md R188). -/
def roundStep (wired : Bool) (s : State) : Result :=
  if h : valid48 (primaryTriple s) ∧ mix32Domain (siteTriple wired s) then
    .next (advanceRound
      (feistelRound (currentSubkey s) (primaryTriple s) (siteTriple wired s) h.1 h.2 ⟨s.l, s.r⟩) s)
  else .fault .mixOutsideDomain

/-- The step of phase FinalSwap: OUT, then the subkeys, L, R and r set to 0, and completion (45_feistel_driver.md R236,
R237). -/
def finalSwapStep (s : State) : State :=
  complete { s with
    out := finalBlock ⟨s.l, s.r⟩, sk := Vector.replicate 16 0, l := 0, r := 0, rIdx := 0 }

/-! ### The Exec step -/

/-- The Exec step of a command with a result: OUT written whole, then completion (R265, R266). -/
def deliver (v : Block) (s : State) : State := complete { s with out := v }

/-- The Exec step of CLEAR, which has no Complete: every element as the rule lists it (R261). -/
def clearStep (s : State) : State :=
  { s with
    key := 0, blk := 0, opb := 0, out := 0, l := 0, r := 0, rIdx := 0, sk := Vector.replicate 16 0, skidx := 0,
    seg := 0x101010, segp := 0x101010,
    done := false, err := false, skValid := false, busyErr := false, errCode := .none,
    op := 0, phase := .idle }

/-- The Exec step of GETBIT, inside the domain of GetBit (40_bit_utilities.md R122, R124). -/
def getbitStep (p wd : Nat) (s : State) : Result :=
  if h : bitPositionOk p wd then
    .next (deliver (rightAligned (BitVec.ofBool (getBit (rightWord wd s.blk) p h.2))) s)
  else .fault .bitPositionOutside

/-- The Exec step of SETBIT, inside the domain of SetBit (40_bit_utilities.md R122, R125). -/
def setbitStep (p wd : Nat) (v : Bool) (s : State) : Result :=
  if h : bitPositionOk p wd then
    .next (deliver (rightAligned (setBit (rightWord wd s.blk) p v h.2)) s)
  else .fault .bitPositionOutside

/-- The Exec step of MIX48 with a triple, inside the domain of Mix48 (43_xo_mixing.md R188, R192). -/
def mix48Step (t : Triple) (s : State) : Result :=
  if h : valid48 t then
    .next (deliver (rightAligned (mix48 (rightWord 48 s.blk) (rightWord 48 s.opb) t h)) s)
  else .fault .mixOutsideDomain

/-- The Exec step of MIX32 with a triple, inside the domain of Mix32 (43_xo_mixing.md R186, R193). -/
def mix32Step (t : Triple) (s : State) : Result :=
  if h : mix32Domain t then
    .next (deliver (rightAligned (mix32 (rightWord 32 s.blk) (rightWord 32 s.opb) t h)) s)
  else .fault .mixOutsideDomain

/-! ### One transition of a command -/

/-- One indivisible transition of command i (log 5). While the engine is idle it is the write of i's word to CMD: check,
then accept or reject (R264). While the engine is busy it is the engine's step in the current phase (R266), the Exec step
being i's own. -/
def transact (i : Instr) (verdict : State → Option ErrCode) (execStep : State → Result) (s : State) : Result :=
  match s.phase with
  | .idle => .next (issue i (verdict s) s)
  | .keySched => .next (keySchedStep s)
  | .initial => .next (initialStep s)
  | .round => roundStep Config.segpWired s
  | .finalSwap => .next (finalSwapStep s)
  | .exec => execStep s

end Sys2Proof.Machine
end

