-- ==== Sys2Proof/Machine/BitUtilities.lean ====
section
/-! DEFINITION. The bit utility commands GETBIT and SETBIT (40_bit_utilities.md R124 to R126). -/

namespace Sys2Proof.Machine

/-- GETBIT: bit p of BLK[W−1:0] to OUT[0] (R124); out of range it is rejected with BAD_BITPOS (R126). -/
def execGetbit (p wd : Nat) (s : State) : Result :=
  transact (.getbit p wd) (fun _ => checkBitPosition p wd) (getbitStep p wd) s

/-- SETBIT: BLK[W−1:0] with bit p replaced by v to OUT (R125); out of range it is rejected with BAD_BITPOS (R126). -/
def execSetbit (p wd : Nat) (v : Bool) (s : State) : Result :=
  transact (.setbit p wd v) (fun _ => checkBitPosition p wd) (setbitStep p wd v) s

end Sys2Proof.Machine
end

