-- ==== Sys2Proof/Machine/Control.lean ====
section
/-! DEFINITION. The control commands NOP and CLEAR (46_control_and_host_access.md R260, R261). -/

namespace Sys2Proof.Machine

/-- NOP: always valid; its Exec step changes no data register and completes (R260). -/
def execNop (s : State) : Result := transact .nop (fun _ => none) (fun s => .next (complete s)) s

/-- CLEAR: always valid; its Exec step returns every element to its reset value (R261), SKVALID among them,
which its acceptance leaves as it is (log 16). -/
def execClear (s : State) : Result := transact .clear (fun _ => none) (fun s => .next (clearStep s)) s

end Sys2Proof.Machine
end

