-- ==== Sys2Proof/Machine/Feistel.lean ====
section
/-! DEFINITION. The two commands that run the key schedule: KSCHED (44_key_schedule.md R219, R220) and ENCRYPT
(45_feistel_driver.md R231 to R237, R242). Neither has an Exec step (46_control_and_host_access.md R264, R265). -/

namespace Sys2Proof.Machine

/-- KSCHED: always valid; one step, KeySched (R219, R220). -/
def execKsched (s : State) : Result := transact .ksched (fun _ => none) (fun _ => .fault .noExecStep) s

/-- ENCRYPT: checked on both triples (R232), then KeySched, Initial, Round sixteen times, FinalSwap (R231, R233 to R236). -/
def execEncrypt (s : State) : Result :=
  transact .encrypt (checkEncrypt Config.segpWired) (fun _ => .fault .noExecStep) s

end Sys2Proof.Machine
end

