-- ==== Sys2Proof/Machine/Mixing.lean ====
section
/-! DEFINITION. The mixing commands MIX48 and MIX32, each with the triple of SEG or of SEGP (43_xo_mixing.md R191 to R193). -/

namespace Sys2Proof.Machine

/-- MIX48.SEG (R192), rejected with INVALID_SEG (R191). -/
def execMix48Seg (s : State) : Result :=
  transact .mix48Seg (fun s => checkMix48 (primaryTriple s) .invalidSeg) (fun s => mix48Step (primaryTriple s) s) s

/-- MIX48.SEGP (R192), rejected with INVALID_SEGP (R191). -/
def execMix48Segp (s : State) : Result :=
  transact .mix48Segp (fun s => checkMix48 (secondaryTriple s) .invalidSegp)
    (fun s => mix48Step (secondaryTriple s) s) s

/-- MIX32.SEG (R193), rejected with INVALID_SEG or INVALID_SEG32 (R191). -/
def execMix32Seg (s : State) : Result :=
  transact .mix32Seg (fun s => checkMix32 (primaryTriple s) .invalidSeg) (fun s => mix32Step (primaryTriple s) s) s

/-- MIX32.SEGP (R193), rejected with INVALID_SEGP or INVALID_SEG32 (R191). -/
def execMix32Segp (s : State) : Result :=
  transact .mix32Segp (fun s => checkMix32 (secondaryTriple s) .invalidSegp)
    (fun s => mix32Step (secondaryTriple s) s) s

end Sys2Proof.Machine
end

