-- ==== Sys2Proof/Machine/Permutation.lean ====
section
/-! DEFINITION. PERMUTE with each of its four tables (41_permutation.md R148). -/

namespace Sys2Proof.Machine

/-- PERMUTE.IP: OUT is IP of BLK (R148). -/
def execPermuteIp (s : State) : Result :=
  transact .permuteIp (fun _ => none)
    (fun s => .next (deliver (leftAligned (permute (leftWord 64 s.blk) tableIP)) s)) s

/-- PERMUTE.FP: OUT is FP of BLK (R148). -/
def execPermuteFp (s : State) : Result :=
  transact .permuteFp (fun _ => none)
    (fun s => .next (deliver (leftAligned (permute (leftWord 64 s.blk) tableFP)) s)) s

/-- PERMUTE.PC1: OUT[63:8] is PC1 of BLK, OUT[7:0] = 0 (R148). -/
def execPermutePc1 (s : State) : Result :=
  transact .permutePc1 (fun _ => none)
    (fun s => .next (deliver (leftAligned (permute (leftWord 64 s.blk) tablePC1)) s)) s

/-- PERMUTE.PC2: OUT[63:16] is PC2 of BLK[63:8], OUT[15:0] = 0 (R148). -/
def execPermutePc2 (s : State) : Result :=
  transact .permutePc2 (fun _ => none)
    (fun s => .next (deliver (leftAligned (permute (leftWord 56 s.blk) tablePC2)) s)) s

end Sys2Proof.Machine
end

