-- ==== Sys2Proof/Machine/Stages.lean ====
section
/-! DEFINITION. The round stages as commands: EXPAND, SUBST, SPERM (42_expansion_substitution_straight.md R173 to R175). -/

namespace Sys2Proof.Machine

/-- EXPAND: OUT[47:0] is Expand of BLK[31:0] (R173). -/
def execExpand (s : State) : Result :=
  transact .expand (fun _ => none)
    (fun s => .next (deliver (rightAligned (expand (rightWord 32 s.blk))) s)) s

/-- SUBST: OUT[31:0] is Substitute of BLK[47:0] (R174). -/
def execSubst (s : State) : Result :=
  transact .subst (fun _ => none)
    (fun s => .next (deliver (rightAligned (substitute (rightWord 48 s.blk))) s)) s

/-- SPERM: OUT[31:0] is Straight of BLK[31:0] (R175). -/
def execSperm (s : State) : Result :=
  transact .sperm (fun _ => none)
    (fun s => .next (deliver (rightAligned (straight (rightWord 32 s.blk))) s)) s

end Sys2Proof.Machine
end

