-- ==== Sys2Proof/Machine/Dispatch.lean ====
section
/-! DEFINITION. The meaning of every command, one arm per constructor. -/

namespace Sys2Proof.Machine

/-- One transition of a command (46_control_and_host_access.md R264 to R266; log 5). -/
def exec (i : Instr) (s : State) : Host.Outcome State Fault Refusal :=
  match i with
  | .nop => Sys2Proof.Machine.execNop s
  | .encrypt => Sys2Proof.Machine.execEncrypt s
  | .ksched => Sys2Proof.Machine.execKsched s
  | .clear => Sys2Proof.Machine.execClear s
  | .getbit p wd => Sys2Proof.Machine.execGetbit p wd s
  | .setbit p wd v => Sys2Proof.Machine.execSetbit p wd v s
  | .permuteIp => Sys2Proof.Machine.execPermuteIp s
  | .permuteFp => Sys2Proof.Machine.execPermuteFp s
  | .permutePc1 => Sys2Proof.Machine.execPermutePc1 s
  | .permutePc2 => Sys2Proof.Machine.execPermutePc2 s
  | .expand => Sys2Proof.Machine.execExpand s
  | .subst => Sys2Proof.Machine.execSubst s
  | .sperm => Sys2Proof.Machine.execSperm s
  | .mix48Seg => Sys2Proof.Machine.execMix48Seg s
  | .mix48Segp => Sys2Proof.Machine.execMix48Segp s
  | .mix32Seg => Sys2Proof.Machine.execMix32Seg s
  | .mix32Segp => Sys2Proof.Machine.execMix32Segp s

end Sys2Proof.Machine
end

