-- ==== Sys2Proof/Machine/HostAccess.lean ====
section
/-! DEFINITION. The register map (20_memory.md R61), the host's two operations (46_control_and_host_access.md R262 to R264),
the engine's turn (R266), the reset event (70_reset_and_hazards.md R320), and which of them happens next. -/

namespace Sys2Proof.Machine

/-! ### The register map -/

/-- The byte offset of a register (20_memory.md R61). -/
def regOffset : HostReg → Nat
  | .cmd => 0x00
  | .status => 0x04
  | .keyHi => 0x08
  | .keyLo => 0x0C
  | .blkHi => 0x10
  | .blkLo => 0x14
  | .opbHi => 0x18
  | .opbLo => 0x1C
  | .seg => 0x20
  | .segp => 0x24
  | .outHi => 0x28
  | .outLo => 0x2C
  | .skidx => 0x30
  | .skHi => 0x34
  | .skLo => 0x38

/-- The register at an offset; none when the access is not valid: not a multiple of 4, or above 0x38 (20_memory.md R66). -/
def regAt (off : Nat) : Option HostReg :=
  if off % 4 ≠ 0 then none
  else [HostReg.cmd, .status, .keyHi, .keyLo, .blkHi, .blkLo, .opbHi, .opbLo, .seg, .segp, .outHi, .outLo, .skidx, .skHi,
    .skLo][off / 4]?

/-! ### Reading -/

/-- Bits [63:32] of a 64-bit register (20_memory.md R63). -/
def hiWord (x : Block) : Word := x.extractLsb' 32 32

/-- Bits [31:0] of a 64-bit register (20_memory.md R63). -/
def loWord (x : Block) : Word := x.extractLsb' 0 32

/-- SK[SKIDX] (10_state.md R37). -/
def windowSubkey (s : State) : Subkey := s.sk[s.skidx.toNat]'s.skidx.isLt

/-- The value a register reads as (R263; 10_state.md R37 for the subkey window). -/
def readReg (r : HostReg) (s : State) : Word :=
  match r with
  | .cmd => 0
  | .status => statusWord s
  | .keyHi => hiWord s.key
  | .keyLo => loWord s.key
  | .blkHi => hiWord s.blk
  | .blkLo => loWord s.blk
  | .opbHi => hiWord s.opb
  | .opbLo => loWord s.opb
  | .seg => s.seg.setWidth 32
  | .segp => s.segp.setWidth 32
  | .outHi => hiWord s.out
  | .outLo => loWord s.out
  | .skidx => s.skidx.setWidth 32
  | .skHi => if s.skValid then ((windowSubkey s).extractLsb' 32 16).setWidth 32 else 0
  | .skLo => if s.skValid then (windowSubkey s).extractLsb' 0 32 else 0

/-- The access returns to the host (20_memory.md R62; log 2). -/
def respond (a : Response) (s : State) : State := { s with responses := a :: s.responses }

/-- RegRead(off): it changes no element of the engine, busy or idle (R263; 20_memory.md R68, R72). -/
def regRead (off : Nat) (s : State) : State :=
  match regAt off with
  | none => respond .error s
  | some r => respond (.data (readReg r s)) s

/-! ### Writing -/

/-- Bits [63:32] replaced (R262). -/
def withHi (x : Block) (v : Word) : Block := v ++ loWord x

/-- Bits [31:0] replaced (R262). -/
def withLo (x : Block) (v : Word) : Block := hiWord x ++ v

/-- A write to a register other than CMD and STATUS while idle; read-only registers take nothing (R262; 20_memory.md R69,
R70). -/
def writeData (r : HostReg) (v : Word) (s : State) : State :=
  match r with
  | .cmd => s
  | .status => s
  | .keyHi => { s with key := withHi s.key v }
  | .keyLo => { s with key := withLo s.key v }
  | .blkHi => { s with blk := withHi s.blk v }
  | .blkLo => { s with blk := withLo s.blk v }
  | .opbHi => { s with opb := withHi s.opb v }
  | .opbLo => { s with opb := withLo s.opb v }
  | .seg => { s with seg := v.extractLsb' 0 24 }
  | .segp => { s with segp := v.extractLsb' 0 24 }
  | .outHi => s
  | .outLo => s
  | .skidx => { s with skidx := v.extractLsb' 0 4 }
  | .skHi => s
  | .skLo => s

/-- CommandWrite(w), a write to CMD while idle: a word that is no command is rejected with ILLEGAL_CMD, a command makes its
transition (R264; 60_exceptions.md R283, R290). -/
def commandWrite (w : Word) (s : State) : Result :=
  match decode w with
  | .error _ => .next (reject .illegalCmd s)
  | .ok i => exec i s

/-- A valid write, in the order of R262: STATUS at any time, everything else dropped while busy, then CMD, then the rest. -/
def regWriteValid (r : HostReg) (v : Word) (s : State) : Result :=
  if r = .status then .next (writeStatus v s)
  else if busy s then .next (noteDropped s)
  else if r = .cmd then commandWrite v s
  else .next (writeData r v s)

/-- RegWrite(off, v): ERROR and no change for an invalid offset, else OK (R262; 20_memory.md R66). -/
def regWrite (off : Nat) (v : Word) (s : State) : Result :=
  match regAt off with
  | none => .next (respond .error s)
  | some r => regWriteValid r v (respond .ok s)

/-! ### The engine's turn, the reset, and the next event -/

/-- The engine's turn: nothing while idle, else the step of the latched command in the current phase (R265, R266). -/
def engineTurn (s : State) : Result :=
  if s.phase = .idle then .next s
  else match decode s.op with
    | .ok i => exec i s
    | .error _ => .fault .latchedWordIllegal

/-- The reset event: every element at its reset value, in any phase (70_reset_and_hazards.md R320, R321). The events still
to come and the answers already returned are not the engine's and stay (log 11). -/
def resetEvent (s : State) : State := { State.reset with inputs := s.inputs, responses := s.responses }

/-- The event happens. -/
def takeEvent (e : Event) (s : State) : Result :=
  match e with
  | .hostRead off => .next (regRead off s)
  | .hostWrite off v => regWrite off v s
  | .engine => engineTurn s
  | .reset => .next (resetEvent s)

/-- The next pending event happens; where none is pending the engine has its turn (log 1, log 3). -/
def nextEvent (s : State) : Result :=
  match s.inputs with
  | [] => engineTurn s
  | e :: rest => takeEvent e { s with inputs := rest }

/-- The state in which the host's next access is the write of w to CMD and the engine is idle, so that the access is
honoured (log 4). -/
def withCommand (w : Word) (s : State) : State :=
  { s with phase := .idle, inputs := .hostWrite (regOffset .cmd) w :: s.inputs }

end Sys2Proof.Machine
end

