-- ==== Sys2Proof/Machine/Step.lean ====
section
/-! DEFINITION. One step of the machine: one indivisible event (20_memory.md R73). -/

namespace Sys2Proof.Machine

/-- One step: the next event (20_memory.md R73, 70_reset_and_hazards.md R331; log 1). -/
def step (s : State) : Host.Outcome State Fault Refusal := Sys2Proof.Machine.nextEvent s

/-- The state in which the very next step is the write of the table's instruction to CMD (log 4). -/
def State.withFetchWord (s : State) (nbits w : Nat) : State :=
  Sys2Proof.Machine.withCommand (Sys2Proof.tableWord nbits w) s

end Sys2Proof.Machine
end

