-- ==== Sys2Proof/Safety.lean ====
section
/-! DEFINITION. What counts as a safe run: the invariant of the engine's elements (10_state.md R25, R26, R33 to R35;
45_feistel_driver.md R235, R237, R244), and the engine's elements apart from the model's own fields. -/

namespace Sys2Proof.Safety

open Sys2Proof.Machine

/-- The engine's own elements (10_state.md R20): the state with the model's two fields emptied. -/
def elements (s : State) : State := { s with inputs := [], responses := [] }

/-- Check, the specific checks of a command (46_control_and_host_access.md R264). -/
def verdict (i : Instr) (s : State) : Option ErrCode :=
  match i with
  | .nop => none
  | .encrypt => checkEncrypt Config.segpWired s
  | .ksched => none
  | .clear => none
  | .getbit p wd => checkBitPosition p wd
  | .setbit p wd _ => checkBitPosition p wd
  | .permuteIp => none
  | .permuteFp => none
  | .permutePc1 => none
  | .permutePc2 => none
  | .expand => none
  | .subst => none
  | .sperm => none
  | .mix48Seg => checkMix48 (primaryTriple s) .invalidSeg
  | .mix48Segp => checkMix48 (secondaryTriple s) .invalidSegp
  | .mix32Seg => checkMix32 (primaryTriple s) .invalidSeg
  | .mix32Segp => checkMix32 (secondaryTriple s) .invalidSegp

/-- The phases in which the engine can be while it runs a command (10_state.md R26, 46_control_and_host_access.md R264). -/
def runsIn (i : Instr) : Phase → Prop
  | .idle => False
  | .keySched => i = .encrypt ∨ i = .ksched
  | .initial => i = .encrypt
  | .round => i = .encrypt
  | .finalSwap => i = .encrypt
  | .exec => i ≠ .encrypt ∧ i ≠ .ksched

/-- The command that the engine runs: latched, legal, valid, and in one of its phases. -/
def Latched (s : State) : Prop :=
  ∃ i, decode s.op = .ok i ∧ verdict i s = none ∧ runsIn i s.phase

/-- How many rounds of the running ENCRYPT are done, in phases Round and FinalSwap. -/
def roundsDone (s : State) : Nat := if s.phase = .finalSwap then 16 else s.rIdx.toNat

/-- L and R hold the halves after the rounds done, from BLK and the schedule of KEY (10_state.md R25). -/
def HalvesFollow (s : State) : Prop :=
  ∀ (hs : valid48 (primaryTriple s)) (hm : mix32Domain (siteTriple Config.segpWired s)),
    (⟨s.l, s.r⟩ : Halves) =
      feistelRounds (primaryTriple s) (siteTriple Config.segpWired s) hs hm
        ((keySchedule s.key).toList.take (roundsDone s)) (initialHalves s.blk)

/-- The engine is between the Initial step and the end of an ENCRYPT. -/
def inRounds (s : State) : Prop := s.phase = .round ∨ s.phase = .finalSwap

/-- The invariant of every state reached from reset. -/
structure EngineInvariant (s : State) : Prop where
  /-- at most one of DONE and ERR (R34) -/
  notBoth : ¬ (s.done = true ∧ s.err = true)
  /-- ERR = 1 exactly when ERRCODE is not 0 (R34) -/
  errHasCode : s.err = true ↔ s.errCode ≠ .none
  /-- while BUSY, DONE and ERR are 0 (R34, R72) -/
  busyFlags : s.phase ≠ .idle → s.done = false ∧ s.err = false
  /-- while BUSY, OP is a command that passed its checks (R27, R265) -/
  latched : s.phase ≠ .idle → Latched s
  /-- r is 0 outside the rounds (R26) -/
  roundZero : ¬ inRounds s → s.rIdx = 0
  /-- r is 15 when the rounds are over (R235) -/
  roundLast : s.phase = .finalSwap → s.rIdx = 15
  /-- L and R are 0 outside the rounds (R25) -/
  halvesZero : ¬ inRounds s → s.l = 0 ∧ s.r = 0
  /-- SKVALID = 1 only outside ENCRYPT and KSCHED, and then SK is the schedule of some key (R35) -/
  windowValid : s.skValid = true → (s.phase = .idle ∨ s.phase = .exec) ∧ ∃ k, s.sk = keySchedule k
  /-- SK is 0 when it is neither kept nor in use (R28, R237) -/
  windowZero : s.skValid = false → (s.phase = .idle ∨ s.phase = .exec) → s.sk = Vector.replicate 16 0
  /-- from Initial on, SK is the schedule of KEY (R219, R233) -/
  scheduleOfKey : (s.phase = .initial ∨ inRounds s) → s.sk = keySchedule s.key
  /-- in the rounds, L and R are what the cipher gives (R25, R235, R244) -/
  halvesFollow : inRounds s → HalvesFollow s

/-- A step is safe when it stops at no fault and at no refusal. -/
def StepsOn (s : State) : Prop := ∃ t, step s = .next t

end Sys2Proof.Safety
end

