-- ==== Sys2Proof/Certificates/Slice0/Obligations.lean ====
section
/-! DEFINITION. The statements about the model, from the numbered rules of spec/. The definitions under Sys2Proof.Claims are
the rules' own formulas, written on bits and numbers, apart from the model's operations. -/

open Sys2Proof Sys2Proof.Machine Sys2Proof.Safety

/-! ### The vocabulary of the statements -/

namespace Sys2Proof.Claims

/-- x⟨p⟩ = x[W − p] (00_scope.md R10). -/
def sourceBit {W : Nat} (x : BitVec W) (p : Nat) : Bool := x.getLsbD (W - p)

/-- The state after a command that delivers v completes (46_control_and_host_access.md R265, R266). -/
def completedWith (v : Block) (s : State) : State := { s with out := v, done := true, phase := .idle }

/-- The state after a rejection (60_exceptions.md R288). -/
def rejectedWith (code : ErrCode) (s : State) : State := { s with err := true, errCode := code, done := false }

/-- The state after the acceptance of a command other than ENCRYPT and KSCHED (46_control_and_host_access.md R264). -/
def acceptedForExec (w : Word) (s : State) : State :=
  { s with done := false, err := false, errCode := .none, op := w, phase := .exec }

/-- The state after the acceptance of ENCRYPT or KSCHED (46_control_and_host_access.md R264). -/
def acceptedForSchedule (w : Word) (s : State) : State :=
  { s with done := false, err := false, errCode := .none, op := w, skValid := false, phase := .keySched }

/-- The state once the pending event is taken. -/
def afterEvent (rest : List Event) (s : State) : State := { s with inputs := rest }

/-- The state once the pending host access is taken and answered. -/
def answered (a : Response) (rest : List Event) (s : State) : State :=
  { s with inputs := rest, responses := a :: s.responses }

/-- The lengths of a stored triple: bits [23:16], [15:8], [7:0] (10_state.md R29). -/
def length1 (v : BitVec 24) : Nat := v.toNat / 65536
def length2 (v : BitVec 24) : Nat := v.toNat / 256 % 256
def length3 (v : BitVec 24) : Nat := v.toNat % 256

/-- The exact sum of the stored lengths (60_exceptions.md R281). -/
def lengthSum (v : BitVec 24) : Nat := length1 v + length2 v + length3 v

/-- The stored triple is (48, 0, 0) (60_exceptions.md R282). -/
abbrev isSingleSegment (v : BitVec 24) : Prop := length1 v = 48 ∧ length2 v = 0 ∧ length3 v = 0

/-- Width and position of GETBIT and SETBIT in range (40_bit_utilities.md R126). -/
abbrev bitInRange (p wd : Nat) : Prop := 1 ≤ wd ∧ wd ≤ 64 ∧ 1 ≤ p ∧ p ≤ wd

/-- The cases of 30_encoding.md R94 on the number w. -/
abbrev listedIllegal (w : Nat) : Prop :=
  let opc := w % 256
  let p := w / 256 % 256
  let wd := w / 65536 % 128
  let b23 := w / 8388608 % 2
  let v := w / 16777216 % 2
  let top := w / 33554432
  opc ∉ [0x00, 0x01, 0x02, 0x03, 0x10, 0x11, 0x12, 0x13, 0x14, 0x15, 0x16, 0x17] ∨
  b23 ≠ 0 ∨ top ≠ 0 ∨
  (v = 1 ∧ opc ≠ 0x11) ∨
  (wd ≠ 0 ∧ opc ∉ [0x10, 0x11]) ∨
  (p ≠ 0 ∧ opc ∈ [0x00, 0x01, 0x02, 0x03, 0x13, 0x14, 0x15]) ∨
  (3 < p ∧ opc = 0x12) ∨
  (1 < p ∧ opc ∈ [0x16, 0x17])

/-- 0 or 1. -/
def bitNat (b : Bool) : Nat := if b then 1 else 0

/-- BUSY | DONE<<1 | ERR<<2 | SKVALID<<3 | BUSYERR<<4 | ERRCODE<<8 (46_control_and_host_access.md R263, 10_state.md R33). -/
def statusNumber (s : State) : Nat :=
  (if s.phase = .idle then 0 else 1) + 2 * bitNat s.done + 4 * bitNat s.err + 8 * bitNat s.skValid +
    16 * bitNat s.busyErr +
    256 * (match s.errCode with
      | .none => 0 | .invalidSeg => 1 | .invalidSegp => 2 | .invalidSeg32 => 3 | .illegalCmd => 4 | .badBitpos => 5)

/-- The subkey the window shows, as a number; 0 while SKVALID = 0 (10_state.md R37). -/
def windowNumber (s : State) : Nat := if s.skValid then (s.sk[s.skidx.toNat]'s.skidx.isLt).toNat else 0

/-- The value RegRead gives at a valid offset, as a number (46_control_and_host_access.md R263). -/
def readNumber (off : Nat) (s : State) : Nat :=
  if off = 0x00 then 0
  else if off = 0x04 then statusNumber s
  else if off = 0x08 then s.key.toNat / 2 ^ 32
  else if off = 0x0C then s.key.toNat % 2 ^ 32
  else if off = 0x10 then s.blk.toNat / 2 ^ 32
  else if off = 0x14 then s.blk.toNat % 2 ^ 32
  else if off = 0x18 then s.opb.toNat / 2 ^ 32
  else if off = 0x1C then s.opb.toNat % 2 ^ 32
  else if off = 0x20 then s.seg.toNat
  else if off = 0x24 then s.segp.toNat
  else if off = 0x28 then s.out.toNat / 2 ^ 32
  else if off = 0x2C then s.out.toNat % 2 ^ 32
  else if off = 0x30 then s.skidx.toNat
  else if off = 0x34 then windowNumber s / 2 ^ 32
  else windowNumber s % 2 ^ 32

/-- A 64-bit register with its upper half replaced. -/
def upperReplaced (x : Block) (v : Word) : Block := BitVec.ofNat 64 (v.toNat * 2 ^ 32 + x.toNat % 2 ^ 32)

/-- A 64-bit register with its lower half replaced. -/
def lowerReplaced (x : Block) (v : Word) : Block := BitVec.ofNat 64 (x.toNat / 2 ^ 32 * 2 ^ 32 + v.toNat)

/-- What RegWrite does at a valid offset other than CMD and STATUS while idle (46_control_and_host_access.md R262). -/
def dataWritten (off : Nat) (v : Word) (s : State) : State :=
  if off = 0x08 then { s with key := upperReplaced s.key v }
  else if off = 0x0C then { s with key := lowerReplaced s.key v }
  else if off = 0x10 then { s with blk := upperReplaced s.blk v }
  else if off = 0x14 then { s with blk := lowerReplaced s.blk v }
  else if off = 0x18 then { s with opb := upperReplaced s.opb v }
  else if off = 0x1C then { s with opb := lowerReplaced s.opb v }
  else if off = 0x20 then { s with seg := BitVec.ofNat 24 v.toNat }
  else if off = 0x24 then { s with segp := BitVec.ofNat 24 v.toNat }
  else if off = 0x30 then { s with skidx := BitVec.ofNat 4 v.toNat }
  else s

/-- The offset is one of the register map's (20_memory.md R66). -/
abbrev validOffset (off : Nat) : Prop := off % 4 = 0 ∧ off ≤ 0x38

/-- The state is idle and its next event is the write of w to CMD. -/
abbrev atCommandWrite (w : Word) (rest : List Event) (s : State) : Prop :=
  s.phase = .idle ∧ s.inputs = .hostWrite 0x00 w :: rest

/-- The total rotation the halves have when subkey r is made (44_key_schedule.md R214). -/
def totalRotations : List Nat := [1, 2, 4, 6, 8, 10, 12, 14, 15, 17, 19, 21, 23, 25, 27, 28]

/-- The position of the key that source bit q of C ‖ D holds after n rotations in all: each half is rotated within itself
(44_key_schedule.md R211, R213). Position of C or D, then PC1. -/
def rotatedKeyPosition (n q : Nat) : Nat :=
  if q ≤ 28 then tablePC1.entries.getD ((q - 1 + n) % 28) 0
  else tablePC1.entries.getD (28 + (q - 29 + n) % 28) 0

/-- The input position of bit j of output row k of E (both from 0): 4k + j, 0 read as 32 and 33 as 1
(42_expansion_substitution_straight.md R161). -/
def expandedFrom (k j : Nat) : Nat := if 4 * k + j = 0 then 32 else if 4 * k + j = 33 then 1 else 4 * k + j

/-- The eight boxes, first to eighth. -/
def boxes : List SBox := [sbox1, sbox2, sbox3, sbox4, sbox5, sbox6, sbox7, sbox8]

/-- The low 48 bits, the low 32 bits of A xor B. -/
def lowXor (n : Nat) (a b : Block) : Block := BitVec.ofNat 64 ((a ^^^ b).toNat % 2 ^ n)

/-- The network with plain exclusive-or at both mixing sites (45_feistel_driver.md R241). -/
def plainRounds : List Subkey → Half × Half → Half × Half
  | [], x => x
  | k :: rest, x => plainRounds rest (x.2, x.1 ^^^ straight (substitute (expand x.2 ^^^ k)))

/-- The cipher with plain exclusive-or (45_feistel_driver.md R241). -/
def plainEncrypt (pt k : Block) : Block :=
  let x := permute pt tableIP
  let y := plainRounds (keySchedule k).toList (x.extractLsb' 32 32, x.extractLsb' 0 32)
  permute (y.2 ++ y.1 : Block) tableFP

/-- The checks of ENCRYPT hold (45_feistel_driver.md R232), with SEGP_WIRED = 0. -/
abbrev encryptAllowed (s : State) : Prop :=
  lengthSum s.seg = 48 ∧ lengthSum s.segp = 48 ∧ ¬ isSingleSegment s.seg

/-- The word w₀, and no other, is the encoding of the command i (30_encoding.md R92). -/
def encodedAs (w₀ : Word) (i : Instr) : Prop := ∀ w : Word, decode w = .ok i ↔ w = w₀

/-- Every word with operation code opc that is not listed is rejected with ILLEGAL_CMD when it is written while idle
(30_encoding.md R94, 60_exceptions.md R283). -/
def otherwiseIllegal (opc : Nat) (legal : List Word) : Prop :=
  ∀ (w : Word) (s : State) (rest : List Event), w.toNat % 256 = opc → w ∉ legal → atCommandWrite w rest s →
    step s = .next (rejectedWith .illegalCmd (answered .ok rest s))

/-- Written while idle, the command i with the word w₀ is accepted in every state, to run in phase Exec
(46_control_and_host_access.md R264). -/
def alwaysAccepted (w₀ : Word) (i : Instr) : Prop :=
  ∀ s : State, s.phase = .idle → exec i s = .next (acceptedForExec w₀ s)

/-- The phase and the round index after n engine steps of an ENCRYPT, r before it being r₀ (10_state.md R26). -/
def phaseAfter (r₀ : BitVec 4) (n : Nat) : Phase × BitVec 4 :=
  if n = 0 then (.keySched, r₀)
  else if n = 1 then (.initial, r₀)
  else if n < 18 then (.round, BitVec.ofNat 4 (n - 2))
  else if n = 18 then (.finalSwap, 15)
  else (.idle, 0)

/-- The engine steps of a command from its acceptance to BUSY = 0 (70_reset_and_hazards.md R330). -/
def engineSteps (i : Instr) : Nat := if i = .encrypt then 19 else 1

/-- Every element of the engine but OUT, SK, STATUS' flags and OP, which a complete ENCRYPT changes
(45_feistel_driver.md R242). -/
abbrev sameOperands (s t : State) : Prop :=
  t.key = s.key ∧ t.blk = s.blk ∧ t.opb = s.opb ∧ t.seg = s.seg ∧ t.segp = s.segp ∧ t.skidx = s.skidx

end Sys2Proof.Claims

open Sys2Proof.Claims

/-! ### Encoding -/

/-- R90, R92: the decoder gives back every well-formed command from its word, with every P, WD and V. -/
def Obligations.DecodeOfEncode : Prop := ∀ i : Instr, WellFormed i → decode (encode i) = .ok i

/-- R92: every word that decodes is the word of the command it decodes to. -/
def Obligations.EncodeOfDecode : Prop := ∀ (w : Word) (i : Instr), decode w = .ok i → WellFormed i ∧ encode i = w

/-- R92: a word that decodes selects the row of its command's mnemonic, and no row with another mnemonic. -/
def Obligations.DecodeFollowsTheRows : Prop :=
  ∀ (w : Word) (i : Instr), decode w = .ok i →
    ∀ row ∈ opcodeRows, row.selects w = true ↔ row.mnemonic = i.mnemonic

/-- R92: no word matches two rows. -/
def Obligations.RowsAreExclusive : Prop :=
  ∀ (w : Word), ∀ a ∈ opcodeRows, ∀ b ∈ opcodeRows, a.selects w = true → b.selects w = true → a = b

/-- R94, R283: the words that match no row are exactly those of R94's list; written while idle each is rejected with
ILLEGAL_CMD and nothing else happens; every other word is a command. -/
def Obligations.IllegalWordsAreRejected : Prop :=
  ∀ w : Word,
    (listedIllegal w.toNat ↔ ∀ row ∈ opcodeRows, row.selects w = false) ∧
    (¬ listedIllegal w.toNat → ∃ i, decode w = .ok i) ∧
    (∀ (s : State) (rest : List Event), listedIllegal w.toNat → atCommandWrite w rest s →
      step s = .next (rejectedWith .illegalCmd (answered .ok rest s)))

/-- R90, R92, R100: words written out from the encoding decode to the commands they stand for. -/
def Obligations.SpecWordsDecode : Prop :=
  decode 0x00000001 = .ok .encrypt ∧ decode 0x00000003 = .ok .clear ∧ decode 0x00400810 = .ok (.getbit 8 64) ∧
  decode 0x01040211 = .ok (.setbit 2 4 true) ∧ decode 0x00000312 = .ok .permutePc2 ∧
  decode 0x00000014 = .ok .subst ∧ decode 0x00000116 = .ok .mix48Segp ∧ decode 0x00000017 = .ok .mix32Seg

/-! ### The step -/

/-- R264, R265, R266: a step runs the decoded command. The write of a command's word to CMD while idle is that command's
transition, after the write is acknowledged; the engine's turn while busy, whether it is the next event or no event is
pending, is the transition of the command in OP. The event list and the acknowledgements are the model's (log 1, log 2, log 3). -/
def Obligations.StepRunsTheDecodedCommand : Prop :=
  ∀ (s : State) (i : Instr),
    (∀ (w : Word) (rest : List Event), atCommandWrite w rest s → decode w = .ok i →
      step s = exec i (answered .ok rest s)) ∧
    (∀ rest : List Event, s.phase ≠ .idle → s.inputs = .engine :: rest → decode s.op = .ok i →
      step s = exec i (afterEvent rest s)) ∧
    (s.phase ≠ .idle → s.inputs = [] → decode s.op = .ok i → step s = exec i s)

/-- The model's choice (log 4): the state withFetchWord gives runs the command of the word as its very next step. -/
def Obligations.FetchWordRunsNext : Prop :=
  ∀ (s : State) (w : Word) (i : Instr), decode w = .ok i →
    step (s.withFetchWord 32 w.toNat) = exec i { s with phase := .idle, responses := .ok :: s.responses }

/-- R266: while idle the engine's turn does nothing. -/
def Obligations.IdleEngineDoesNothing : Prop :=
  ∀ (s : State) (rest : List Event), s.phase = .idle →
    (s.inputs = .engine :: rest → step s = .next (afterEvent rest s)) ∧ (s.inputs = [] → step s = .next s)

/-! ### Reset -/

/-- R43: the value of every element after reset; CMD reads 0, STATUS reads 0, BUSY is 0. -/
def Obligations.ResetValues : Prop :=
  State.reset.key = 0 ∧ State.reset.blk = 0 ∧ State.reset.opb = 0 ∧ State.reset.out = 0 ∧
  State.reset.l = 0 ∧ State.reset.r = 0 ∧ (∀ i : Fin 16, State.reset.sk[i] = 0) ∧ State.reset.skidx = 0 ∧
  readReg .seg State.reset = 0x00101010 ∧ readReg .segp State.reset = 0x00101010 ∧
  readReg .cmd State.reset = 0 ∧ readReg .status State.reset = 0 ∧
  State.reset.phase = .idle ∧ State.reset.rIdx = 0 ∧ State.reset.op = 0

/-- R321, R320: reset in any state, in any phase, gives every element its reset value and leaves the engine idle. -/
def Obligations.ResetFromAnyState : Prop :=
  ∀ (s : State) (rest : List Event), s.inputs = .reset :: rest →
    step s = .next { State.reset with inputs := rest, responses := s.responses }

/-! ### Host accesses -/

/-- R66: an access whose offset is not a multiple of 4, or is 0x3C or more, is answered ERROR with no data and changes no
element; a read at any other offset is answered OK with data. -/
def Obligations.InvalidAccessIsAnError : Prop :=
  ∀ (s : State) (off : Nat) (v : Word) (rest : List Event),
    (¬ validOffset off → s.inputs = .hostRead off :: rest → step s = .next (answered .error rest s)) ∧
    (¬ validOffset off → s.inputs = .hostWrite off v :: rest → step s = .next (answered .error rest s)) ∧
    (validOffset off → s.inputs = .hostRead off :: rest → ∃ d, step s = .next (answered (.data d) rest s))

/-- R263: a read, busy or idle, of a valid offset returns the value of the register map, of any other offset ERROR and no
value; neither changes anything. -/
def Obligations.ReadsFollowTheMap : Prop :=
  ∀ (s : State) (off : Nat) (rest : List Event), s.inputs = .hostRead off :: rest →
    (validOffset off → step s = .next (answered (.data (BitVec.ofNat 32 (readNumber off s))) rest s)) ∧
    (¬ validOffset off → step s = .next (answered .error rest s))

/-- R262: the dispatch of a write, in its order: an invalid offset is answered ERROR; STATUS is honoured busy or idle;
while busy anything else is dropped; CMD is the command write of R264; a data register takes the value by the map, a
read-only one nothing. Nothing else changes. -/
def Obligations.WritesFollowTheDispatch : Prop :=
  ∀ (s : State) (off : Nat) (v : Word) (rest : List Event), s.inputs = .hostWrite off v :: rest →
    (¬ validOffset off → step s = .next (answered .error rest s)) ∧
    (off = 0x04 → step s = .next { answered .ok rest s with busyErr := s.busyErr && !v.getLsbD 4 }) ∧
    (validOffset off → off ≠ 0x04 → s.phase ≠ .idle →
      step s = .next { answered .ok rest s with busyErr := true }) ∧
    (s.phase = .idle → off = 0x00 →
      (∀ i, decode v = .ok i → step s = exec i (answered .ok rest s)) ∧
      ((∀ i, decode v ≠ .ok i) → step s = .next (rejectedWith .illegalCmd (answered .ok rest s)))) ∧
    (s.phase = .idle → validOffset off → off ≠ 0x00 → off ≠ 0x04 →
      step s = .next (dataWritten off v (answered .ok rest s)))

/-- R71: while busy, a valid write to any offset but STATUS is answered OK, stores nothing, starts nothing, and sets
BUSYERR; a write to STATUS is honoured at any time. -/
def Obligations.BusyWritesAreDropped : Prop :=
  ∀ (s : State) (off : Nat) (v : Word) (rest : List Event), s.inputs = .hostWrite off v :: rest →
    (validOffset off → off ≠ 0x04 → s.phase ≠ .idle →
      step s = .next { answered .ok rest s with busyErr := true }) ∧
    (off = 0x04 → step s = .next { answered .ok rest s with busyErr := s.busyErr && !v.getLsbD 4 })

/-- R36, R68: a write to STATUS, busy or idle, clears BUSYERR when bit 4 of the value is 1 and changes nothing else. -/
def Obligations.StatusWriteClearsBusyerr : Prop :=
  ∀ (s : State) (v : Word) (rest : List Event), s.inputs = .hostWrite 0x04 v :: rest →
    step s = .next { answered .ok rest s with busyErr := s.busyErr && !v.getLsbD 4 }

/-- R37: writing SKIDX stores bits [3:0]; SK_HI and SK_LO then show that subkey, right-aligned in 64 bits, when
SKVALID = 1, and zeros when it is 0; SKIDX reads back zero-extended; its reset value is 0. -/
def Obligations.SubkeyWindowShowsTheEntry : Prop :=
  State.reset.skidx = 0 ∧
  ∀ (s : State) (v : Word) (rest : List Event), s.phase = .idle →
    s.inputs = .hostWrite 0x30 v :: .hostRead 0x34 :: .hostRead 0x38 :: .hostRead 0x30 :: rest →
    ∃ hi lo : Word, Host.Core.run core 4 s =
        .next { s with
          inputs := rest, skidx := BitVec.ofNat 4 v.toNat,
          responses := .data (BitVec.ofNat 32 (v.toNat % 16)) :: .data lo :: .data hi :: .ok :: s.responses } ∧
      hi.toNat * 2 ^ 32 + lo.toNat =
        if s.skValid then (s.sk[v.toNat % 16]'(Nat.mod_lt _ (by decide))).toNat else 0

/-! ### The write of a command: acceptance and rejection -/

/-- R220: KSCHED has one word and is accepted in every idle state: DONE, ERR, ERRCODE and SKVALID cleared, the word latched,
phase KeySched; its one step then writes the schedule of KEY, sets SKVALID and DONE and goes idle; nothing else changes. How long the
schedule stays readable is not said here (log 16). -/
def Obligations.KschedKeepsTheSchedule : Prop :=
  encodedAs 0x00000002 .ksched ∧ otherwiseIllegal 0x02 [0x00000002] ∧
  (∀ s : State, s.phase = .idle → exec .ksched s = .next (acceptedForSchedule 0x00000002 s)) ∧
  ∀ s : State, s.phase = .keySched → s.op = 0x00000002 →
    exec .ksched s = .next { s with sk := keySchedule s.key, skValid := true, done := true, phase := .idle }

/-- R126, R284: GETBIT and SETBIT are accepted when 1 ≤ W ≤ 64 and 1 ≤ p ≤ W and rejected with BAD_BITPOS otherwise. -/
def Obligations.BitPositionsAreChecked : Prop :=
  ∀ (s : State) (p wd : Nat) (v : Bool), s.phase = .idle →
    (bitInRange p wd →
      exec (.getbit p wd) s = .next (acceptedForExec (BitVec.ofNat 32 (0x10 + 256 * p + 65536 * wd)) s) ∧
      exec (.setbit p wd v) s =
        .next (acceptedForExec (BitVec.ofNat 32 (0x11 + 256 * p + 65536 * wd + 16777216 * bitNat v)) s)) ∧
    (¬ bitInRange p wd →
      exec (.getbit p wd) s = .next (rejectedWith .badBitpos s) ∧
      exec (.setbit p wd v) s = .next (rejectedWith .badBitpos s))

/-- R191: MIX48 and MIX32 are rejected when the selected triple does not sum to 48, MIX32 also for (48, 0, 0); the triple
not selected is not examined; otherwise they are accepted. -/
def Obligations.MixTriplesAreChecked : Prop :=
  ∀ s : State, s.phase = .idle →
    (lengthSum s.seg ≠ 48 →
      exec .mix48Seg s = .next (rejectedWith .invalidSeg s) ∧ exec .mix32Seg s = .next (rejectedWith .invalidSeg s)) ∧
    (lengthSum s.segp ≠ 48 →
      exec .mix48Segp s = .next (rejectedWith .invalidSegp s) ∧
      exec .mix32Segp s = .next (rejectedWith .invalidSegp s)) ∧
    (lengthSum s.seg = 48 → exec .mix48Seg s = .next (acceptedForExec 0x00000016 s)) ∧
    (lengthSum s.segp = 48 → exec .mix48Segp s = .next (acceptedForExec 0x00000116 s)) ∧
    (isSingleSegment s.seg → exec .mix32Seg s = .next (rejectedWith .invalidSeg32 s)) ∧
    (isSingleSegment s.segp → exec .mix32Segp s = .next (rejectedWith .invalidSeg32 s)) ∧
    (lengthSum s.seg = 48 → ¬ isSingleSegment s.seg →
      exec .mix32Seg s = .next (acceptedForExec 0x00000017 s)) ∧
    (lengthSum s.segp = 48 → ¬ isSingleSegment s.segp →
      exec .mix32Segp s = .next (acceptedForExec 0x00000117 s))

/-- R232 with the spec's SEGP_WIRED = 0: the write of an ENCRYPT word while idle is rejected by the first failing check of
ILLEGAL_CMD, INVALID_SEG, INVALID_SEGP, INVALID_SEG32, else accepted. -/
def Obligations.EncryptChecksInOrder : Prop :=
  ∀ (s : State) (w : Word) (rest : List Event), w.toNat % 256 = 1 → atCommandWrite w rest s →
    (w ≠ 0x00000001 → step s = .next (rejectedWith .illegalCmd (answered .ok rest s))) ∧
    (w = 0x00000001 → lengthSum s.seg ≠ 48 → step s = .next (rejectedWith .invalidSeg (answered .ok rest s))) ∧
    (w = 0x00000001 → lengthSum s.seg = 48 → lengthSum s.segp ≠ 48 →
      step s = .next (rejectedWith .invalidSegp (answered .ok rest s))) ∧
    (w = 0x00000001 → lengthSum s.segp = 48 → isSingleSegment s.seg →
      step s = .next (rejectedWith .invalidSeg32 (answered .ok rest s))) ∧
    (w = 0x00000001 → encryptAllowed s →
      step s = .next (acceptedForSchedule 0x00000001 (answered .ok rest s)))

/-! ### The Exec step of each command -/

/-- R260: NOP has one word, is accepted in every idle state, and its step changes no data register and completes. -/
def Obligations.NopCompletes : Prop :=
  encodedAs 0x00000000 .nop ∧ otherwiseIllegal 0x00 [0x00000000] ∧ alwaysAccepted 0x00000000 .nop ∧
  ∀ s : State, s.phase = .exec → exec .nop s = .next { s with done := true, phase := .idle }

/-- R261: CLEAR has one word, is accepted in every idle state, and after its step every element has its reset value.
The model's own fields stay (log 11). That the acceptance leaves SKVALID as it is, so that it is cleared only by the step, is
the model's choice between two readings of the spec (log 16). -/
def Obligations.ClearGivesTheResetState : Prop :=
  encodedAs 0x00000003 .clear ∧ otherwiseIllegal 0x03 [0x00000003] ∧ alwaysAccepted 0x00000003 .clear ∧
  ∀ s : State, s.phase = .exec →
    exec .clear s = .next { State.reset with inputs := s.inputs, responses := s.responses }

/-- R124: the words of GETBIT; its acceptance and rejection (R126); its step gives bit [W − p] of BLK in OUT[0],
OUT[63:1] = 0, and changes nothing but OUT, DONE and BUSY. -/
def Obligations.GetbitReadsTheBit : Prop :=
  (∀ (w : Word) (p wd : Nat), decode w = .ok (.getbit p wd) ↔
    p < 256 ∧ wd < 128 ∧ w.toNat = 0x10 + 256 * p + 65536 * wd) ∧
  (∀ (w : Word) (s : State) (rest : List Event), w.toNat % 256 = 0x10 → 8388608 ≤ w.toNat → atCommandWrite w rest s →
    step s = .next (rejectedWith .illegalCmd (answered .ok rest s))) ∧
  (∀ (s : State) (p wd : Nat), s.phase = .idle →
    exec (.getbit p wd) s = .next (if 1 ≤ wd ∧ wd ≤ 64 ∧ 1 ≤ p ∧ p ≤ wd
      then acceptedForExec (BitVec.ofNat 32 (0x10 + 256 * p + 65536 * wd)) s else rejectedWith .badBitpos s)) ∧
  ∀ (s : State) (p wd : Nat), s.phase = .exec → bitInRange p wd →
    exec (.getbit p wd) s = .next (completedWith (BitVec.ofNat 64 (s.blk.toNat / 2 ^ (wd - p) % 2)) s)

/-- R125: the words of SETBIT; its acceptance and rejection (R126); its step gives BLK[W − 1:0] with the bit at position p
replaced by v, OUT[63:W] = 0, and changes nothing but OUT, DONE and BUSY: BLK is not modified. -/
def Obligations.SetbitReplacesTheBit : Prop :=
  (∀ (w : Word) (p wd : Nat) (v : Bool), decode w = .ok (.setbit p wd v) ↔
    p < 256 ∧ wd < 128 ∧ w.toNat = 0x11 + 256 * p + 65536 * wd + 16777216 * bitNat v) ∧
  (∀ (w : Word) (s : State) (rest : List Event), w.toNat % 256 = 0x11 →
    w.toNat / 8388608 % 2 = 1 ∨ 33554432 ≤ w.toNat → atCommandWrite w rest s →
    step s = .next (rejectedWith .illegalCmd (answered .ok rest s))) ∧
  (∀ (s : State) (p wd : Nat) (v : Bool), s.phase = .idle →
    exec (.setbit p wd v) s = .next (if 1 ≤ wd ∧ wd ≤ 64 ∧ 1 ≤ p ∧ p ≤ wd
      then acceptedForExec (BitVec.ofNat 32 (0x11 + 256 * p + 65536 * wd + 16777216 * bitNat v)) s
      else rejectedWith .badBitpos s)) ∧
  ∀ (s : State) (p wd : Nat) (v : Bool), s.phase = .exec → bitInRange p wd →
    ∃ o : Block, exec (.setbit p wd v) s = .next (completedWith o s) ∧
      ∀ j < 64, o.getLsbD j = if wd ≤ j then false else if j = wd - p then v else s.blk.getLsbD j

/-- R148: the four words of PERMUTE, each accepted in every idle state, every other word with that operation code illegal.
The step writes OUT left-aligned, source bit i of OUT being source bit table[i] of BLK, the bits of OUT beyond the table's
length 0, and changes nothing but OUT, DONE and BUSY. The
tables are those that the spec prints (log 7). -/
def Obligations.PermuteMovesTheBits : Prop :=
  (encodedAs 0x00000012 .permuteIp ∧ alwaysAccepted 0x00000012 .permuteIp) ∧
  (encodedAs 0x00000112 .permuteFp ∧ alwaysAccepted 0x00000112 .permuteFp) ∧
  (encodedAs 0x00000212 .permutePc1 ∧ alwaysAccepted 0x00000212 .permutePc1) ∧
  (encodedAs 0x00000312 .permutePc2 ∧ alwaysAccepted 0x00000312 .permutePc2) ∧
  otherwiseIllegal 0x12 [0x00000012, 0x00000112, 0x00000212, 0x00000312] ∧
  ∀ s : State, s.phase = .exec →
    (∃ o : Block, exec .permuteIp s = .next (completedWith o s) ∧
      ∀ i : Fin 64, sourceBit o (i + 1) = sourceBit s.blk (tableIP.entries.getD i 0)) ∧
    (∃ o : Block, exec .permuteFp s = .next (completedWith o s) ∧
      ∀ i : Fin 64, sourceBit o (i + 1) = sourceBit s.blk (tableFP.entries.getD i 0)) ∧
    (∃ o : Block, exec .permutePc1 s = .next (completedWith o s) ∧ o.toNat % 2 ^ 8 = 0 ∧
      ∀ i : Fin 56, sourceBit o (i + 1) = sourceBit s.blk (tablePC1.entries.getD i 0)) ∧
    (∃ o : Block, exec .permutePc2 s = .next (completedWith o s) ∧ o.toNat % 2 ^ 16 = 0 ∧
      ∀ i : Fin 48, sourceBit o (i + 1) = sourceBit s.blk (tablePC2.entries.getD i 0))

/-- R173, R161: EXPAND has one word and is accepted in every idle state; its step gives in OUT[47:0] the eight rows of six bits, row k being input bits 4k − 4 to 4k + 1 of BLK[31:0]
with wrap-around, OUT[63:48] = 0. The
tables are those that the spec prints (log 7). -/
def Obligations.ExpandFansOut : Prop :=
  encodedAs 0x00000013 .expand ∧ otherwiseIllegal 0x13 [0x00000013] ∧ alwaysAccepted 0x00000013 .expand ∧
  ∀ s : State, s.phase = .exec →
    ∃ o : Block, exec .expand s = .next (completedWith o s) ∧ o.toNat < 2 ^ 48 ∧
      ∀ (k : Fin 8) (j : Fin 6), o.getLsbD (47 - (6 * k + j)) = s.blk.getLsbD (32 - expandedFrom k j)

/-- R174, R162: SUBST has one word and is accepted in every idle state; its step gives in OUT[31:0], nibble by nibble from the most significant, the entry of the k-th box at the row of
the outer bits and the column of the middle bits of the k-th group of BLK[47:0]. The
tables are those that the spec prints (log 7). -/
def Obligations.SubstLooksUp : Prop :=
  encodedAs 0x00000014 .subst ∧ otherwiseIllegal 0x14 [0x00000014] ∧ alwaysAccepted 0x00000014 .subst ∧
  ∀ s : State, s.phase = .exec →
    ∃ o : Block, exec .subst s = .next (completedWith o s) ∧ o.toNat < 2 ^ 32 ∧
      ∀ k : Fin 8,
        let g := s.blk.toNat / 2 ^ (42 - 6 * k.val) % 64
        let row := g / 32 * 2 + g % 2
        let col := g / 2 % 16
        (boxes[k.val]?.bind fun b => b.entries[row * 16 + col]?) =
          some (BitVec.ofNat 4 (o.toNat / 2 ^ (28 - 4 * k.val)))

/-- R175, R171: SPERM has one word and is accepted in every idle state; its step gives in OUT[31:0] the bits of BLK[31:0] at the positions of P, OUT[63:32] = 0. The
tables are those that the spec prints (log 7). -/
def Obligations.SpermMovesTheBits : Prop :=
  encodedAs 0x00000015 .sperm ∧ otherwiseIllegal 0x15 [0x00000015] ∧ alwaysAccepted 0x00000015 .sperm ∧
  ∀ s : State, s.phase = .exec →
    ∃ o : Block, exec .sperm s = .next (completedWith o s) ∧ o.toNat < 2 ^ 32 ∧
      ∀ i : Fin 32, o.getLsbD (31 - i) = s.blk.getLsbD (32 - tableP.entries.getD i 0)

/-- R192, R187: MIX48, with a triple that sums to 48, gives the exclusive-or of BLK[47:0] and OPB[47:0], whatever the triple. -/
def Obligations.MixFortyEightIsXor : Prop :=
  ∀ s : State, s.phase = .exec →
    (lengthSum s.seg = 48 → exec .mix48Seg s = .next (completedWith (lowXor 48 s.blk s.opb) s)) ∧
    (lengthSum s.segp = 48 → exec .mix48Segp s = .next (completedWith (lowXor 48 s.blk s.opb) s))

/-- R193, R187: MIX32, with a triple that sums to 48 and is not (48, 0, 0), gives the exclusive-or of BLK[31:0] and OPB[31:0]. -/
def Obligations.MixThirtyTwoIsXor : Prop :=
  ∀ s : State, s.phase = .exec →
    (lengthSum s.seg = 48 → ¬ isSingleSegment s.seg →
      exec .mix32Seg s = .next (completedWith (lowXor 32 s.blk s.opb) s)) ∧
    (lengthSum s.segp = 48 → ¬ isSingleSegment s.segp →
      exec .mix32Segp s = .next (completedWith (lowXor 32 s.blk s.opb) s))

/-! ### The phases of KSCHED and ENCRYPT -/

/-- R219: the KeySched step writes all sixteen subkeys from KEY; with OP[7:0] = 1 it goes on to Initial, else it sets
SKVALID and completes. -/
def Obligations.KeySchedStepWritesTheFile : Prop :=
  ∀ s : State, s.phase = .keySched →
    (s.op.toNat % 256 = 1 → exec .encrypt s = .next { s with sk := keySchedule s.key, phase := .initial }) ∧
    (s.op.toNat % 256 = 2 →
      exec .ksched s = .next { s with sk := keySchedule s.key, skValid := true, done := true, phase := .idle })

/-- R234: the Initial step puts source bits 1 to 32 of IP of BLK in L and 33 to 64 in R, sets r to 0 and enters Round. The
tables are those that the spec prints (log 7). -/
def Obligations.InitialStepSplitsTheBlock : Prop :=
  ∀ s : State, s.phase = .initial →
    ∃ a b : Half, exec .encrypt s = .next { s with l := a, r := b, rIdx := 0, phase := .round } ∧
      (∀ i : Fin 32, sourceBit a (i + 1) = sourceBit s.blk (tableIP.entries.getD i 0)) ∧
      (∀ i : Fin 32, sourceBit b (i + 1) = sourceBit s.blk (tableIP.entries.getD (32 + i) 0))

/-- R235, R187: the Round step with r: L takes the previous R, R takes L xor the round function under SK[r]; then r + 1, or
FinalSwap after r = 15; nothing else changes. -/
def Obligations.RoundStepIsTheFeistelRound : Prop :=
  ∀ s : State, s.phase = .round → encryptAllowed s →
    exec .encrypt s =
      .next { s with
        l := s.r
        r := s.l ^^^ straight (substitute (expand s.r ^^^ s.sk[s.rIdx.toNat]'s.rIdx.isLt))
        rIdx := if s.rIdx.toNat < 15 then s.rIdx + 1 else s.rIdx
        phase := if s.rIdx.toNat < 15 then .round else .finalSwap }

/-- R236: the FinalSwap step writes FP of R ‖ L to OUT, sets SK, L, R and r to 0, and completes; no earlier step of an
ENCRYPT, nor its acceptance, changes OUT. The
tables are those that the spec prints (log 7). -/
def Obligations.FinalSwapStepDelivers : Prop :=
  (∀ s t : State, s.phase ≠ .finalSwap → exec .encrypt s = .next t → t.out = s.out) ∧
  ∀ s : State, s.phase = .finalSwap →
    ∃ o : Block, exec .encrypt s =
        .next { s with
          out := o, sk := Vector.replicate 16 0, l := 0, r := 0, rIdx := 0, done := true, phase := .idle } ∧
      ∀ i : Fin 64,
        let q := tableFP.entries.getD i 0
        sourceBit o (i + 1) = if q ≤ 32 then sourceBit s.r q else sourceBit s.l (q - 32)

/-! ### The cipher -/

/-- R211 to R214: source bit i + 1 of subkey n is the key bit that PC1, the rotations up to round n within each half, and PC2
bring there. The
tables are those that the spec prints (log 7). -/
def Obligations.KeyScheduleBitByBit : Prop :=
  ∀ (k : Block) (n : Fin 16) (i : Fin 48),
    sourceBit ((keySchedule k)[n]) (i + 1) =
      sourceBit k (rotatedKeyPosition (totalRotations.getD n 0) (tablePC2.entries.getD i 0))

/-- R217: two keys that agree at every position that is not a multiple of 8 have the same schedule. -/
def Obligations.ParityBitsAreUnused : Prop :=
  ∀ k k' : Block, (∀ p : Nat, 1 ≤ p → p ≤ 64 → p % 8 ≠ 0 → sourceBit k p = sourceBit k' p) →
    keySchedule k = keySchedule k'

/-- R144: FP undoes IP and IP undoes FP, on every block. -/
def Obligations.FinalUndoesInitial : Prop :=
  ∀ x : Block, permute (permute x tableIP) tableFP = x ∧ permute (permute x tableFP) tableIP = x

/-- R140: a table-driven permutation is linear over exclusive-or. -/
def Obligations.PermuteIsLinear : Prop :=
  ∀ (win n : Nat) (a b : BitVec win) (t : PermTable win n),
    permute (a ^^^ b) t = permute a t ^^^ permute b t ∧ permute (0 : BitVec win) t = 0

/-- R121: setting a bit replaces that bit and keeps every other, and writing back a bit read changes nothing. -/
def Obligations.SetBitThenGetBit : Prop :=
  ∀ (W : Nat) (x : BitVec W) (p q : Nat) (v : Bool) (hp : inWord W p) (hq : inWord W q),
    getBit (setBit x p v hp) p hp = v ∧ (q ≠ p → getBit (setBit x p v hp) q hq = getBit x q hq) ∧
    setBit x p (getBit x p hp) hp = x

/-- R187: for every partition, the segmented combine is the exclusive-or; hence it is commutative and self-inverse. -/
def Obligations.SegmentedMixIsXor : Prop :=
  ∀ (W : Nat) (a b : BitVec W) (t : Triple) (h : isPartition W t),
    mixW a b t h = a ^^^ b ∧ mixW a b t h = mixW b a t h ∧ mixW (mixW a b t h) b t h = a

/-- R185: on a triple that sums to 48, the derived lengths sum to 32, the first and last are at least 1, the middle is at
least 1 unless s1 is 47 or more, and it is negative exactly for (48, 0, 0). -/
def Obligations.ScaledTripleGuarantees : Prop :=
  ∀ t : Triple, valid48 t →
    (scale32 t).top + (scale32 t).middle + (scale32 t).bottom = 32 ∧
    1 ≤ (scale32 t).top ∧ (scale32 t).top ≤ 32 ∧ 1 ≤ (scale32 t).bottom ∧
    (t.top < 47 → 1 ≤ (scale32 t).middle) ∧ (¬ seg32OK t ↔ t = ⟨48, 0, 0⟩)

/-- R241: on every pair of triples in its domain the cipher equals the network with plain exclusive-or. -/
def Obligations.CipherIsThePlainNetwork : Prop :=
  ∀ (pt k : Block) (s m : Triple) (hs : valid48 s) (hm : mix32Domain m),
    encrypt pt k s m hs hm = plainEncrypt pt k

/-- 95_test_vectors.md V2: complementing block and key complements the ciphertext. -/
def Obligations.CipherComplements : Prop :=
  ∀ (pt k : Block) (s m : Triple) (hs : valid48 s) (hm : mix32Domain m),
    encrypt (~~~pt) (~~~k) s m hs hm = ~~~(encrypt pt k s m hs hm)

/-! ### ENCRYPT as a whole -/

/-- R231, R242, R330: from any idle state whose triples pass the checks, the command write and nineteen engine steps leave
exactly: the ciphertext in OUT, SK, L, R and r at 0, DONE = 1, ERR and ERRCODE and SKVALID at 0, OP the word, the rest as
it was. -/
def Obligations.EncryptTakesNineteenSteps : Prop :=
  ∀ (s : State) (rest : List Event), s.phase = .idle → encryptAllowed s →
    s.inputs = .hostWrite 0x00 0x00000001 :: (List.replicate 19 .engine ++ rest) →
    Host.Core.run core 20 s =
      .next { s with
        out := plainEncrypt s.blk s.key, sk := Vector.replicate 16 0, l := 0, r := 0, rIdx := 0,
        done := true, err := false, errCode := .none, skValid := false, op := 0x00000001,
        inputs := rest, responses := .ok :: s.responses }

/-- R231: an accepted ENCRYPT runs exactly nineteen engine steps: KeySched, Initial, Round with r = 0 to 15, FinalSwap; then
it is idle. -/
def Obligations.EncryptVisitsItsPhases : Prop :=
  ∀ (s : State) (rest : List Event) (n : Nat), s.phase = .idle → encryptAllowed s → n ≤ 19 →
    s.inputs = .hostWrite 0x00 0x00000001 :: (List.replicate n .engine ++ rest) →
    ∃ t : State, Host.Core.run core (n + 1) s = .next t ∧ (t.phase, t.rIdx) = phaseAfter s.rIdx n

/-- R330, R264, R266: a write to CMD while busy, and the write of a command whose checks fail, take no engine step. Every command whose
checks hold is busy from its write until it has had as many engine steps as the rule counts for it, and then idle, ERR = 0,
DONE = 1 unless it is CLEAR. -/
def Obligations.EveryCommandFinishes : Prop :=
  (∀ (s : State) (w : Word) (rest : List Event), s.phase ≠ .idle → s.inputs = .hostWrite 0x00 w :: rest →
    step s = .next { answered .ok rest s with busyErr := true }) ∧
  ∀ (s : State) (i : Instr) (rest : List Event), WellFormed i → s.phase = .idle →
    s.inputs = .hostWrite 0x00 (encode i) :: (List.replicate (engineSteps i) .engine ++ rest) →
    (∀ code, verdict i s = some code →
      step s = .next (rejectedWith code (answered .ok (List.replicate (engineSteps i) .engine ++ rest) s))) ∧
    (verdict i s = none →
      (∀ n < engineSteps i, ∃ u : State, Host.Core.run core (n + 1) s = .next u ∧ u.phase ≠ .idle) ∧
      ∃ t : State, Host.Core.run core (engineSteps i + 1) s = .next t ∧ t.phase = .idle ∧ t.err = false ∧
        t.inputs = rest ∧ (t.done = true ↔ i ≠ .clear))

/-- R71, R73, R331: whatever host accesses fall between the engine's steps of an ENCRYPT, it ends with the ciphertext of the
operands as they stood at acceptance, and the operands are as they were. -/
def Obligations.EncryptUnderEveryInterleaving : Prop :=
  ∀ (s : State) (es rest : List Event), s.phase = .idle → encryptAllowed s →
    (∀ e ∈ es, e ≠ .reset) → es.count .engine = 18 →
    s.inputs = .hostWrite 0x00 0x00000001 :: (es ++ .engine :: rest) →
    ∃ t, Host.Core.run core (es.length + 2) s = .next t ∧
      t.out = plainEncrypt s.blk s.key ∧ sameOperands s t ∧ t.phase = .idle ∧ t.done = true ∧ t.err = false ∧
      t.errCode = .none ∧ t.skValid = false ∧ t.sk = Vector.replicate 16 0 ∧ t.l = 0 ∧ t.r = 0 ∧ t.rIdx = 0 ∧
      t.inputs = rest

/-- R243: the OUT of an ENCRYPT does not depend on OPB, OUT, SK, SKIDX, the flags, or the L, R, r and OP left by earlier
commands. -/
def Obligations.EncryptIgnoresEarlierState : Prop :=
  ∀ (s s' : State) (rest rest' : List Event), s.phase = .idle → s'.phase = .idle → encryptAllowed s →
    s.blk = s'.blk → s.key = s'.key → s.seg = s'.seg → s.segp = s'.segp →
    s.inputs = .hostWrite 0x00 0x00000001 :: (List.replicate 19 .engine ++ rest) →
    s'.inputs = .hostWrite 0x00 0x00000001 :: (List.replicate 19 .engine ++ rest') →
    ∃ t t', Host.Core.run core 20 s = .next t ∧ Host.Core.run core 20 s' = .next t' ∧ t.out = t'.out

/-! ### The whole machine -/

/-- The invariant holds after reset. -/
def Obligations.ResetMeetsTheInvariant : Prop := EngineInvariant State.reset

/-- R26, R27, R28, R34, R35, R25: every step keeps the invariant, whatever the next event. -/
def Obligations.EveryStepKeepsTheInvariant : Prop :=
  ∀ s t : State, EngineInvariant s → step s = .next t → EngineInvariant t

/-- R280, R289: no state that meets the invariant stops: whatever the next event, the step answers a next state. -/
def Obligations.NoStepStops : Prop := ∀ s : State, EngineInvariant s → StepsOn s

/-- R24, R325: OUT changes only in the last step of a command or in a reset: a step that changes OUT leaves the engine idle,
and it was in Exec or FinalSwap or the event was a reset. -/
def Obligations.OutChangesOnlyAtTheEnd : Prop :=
  ∀ s t : State, step s = .next t → t.out ≠ s.out →
    t.phase = .idle ∧ (s.phase = .exec ∨ s.phase = .finalSwap ∨ ∃ rest, s.inputs = .reset :: rest)

/-- R21, R71: while busy, KEY, BLK, OPB, SEG, SEGP and SKIDX do not change, except by the Exec step of CLEAR or a reset. -/
def Obligations.OperandsAreStableWhileBusy : Prop :=
  ∀ s t : State, step s = .next t → s.phase ≠ .idle → (∀ rest, s.inputs ≠ .reset :: rest) →
    ¬ (s.phase = .exec ∧ decode s.op = .ok .clear) → sameOperands s t

/-- R289: ERR becomes 1 only by a write to CMD while idle. -/
def Obligations.ErrorsAriseOnlyAtCommandWrites : Prop :=
  ∀ s t : State, step s = .next t → s.err = false → t.err = true → ∃ w rest, atCommandWrite w rest s

/-- R240, R330: the next phase and round index of a running command depend only on PHASE, r and OP, not on any data. -/
def Obligations.PhasesIgnoreTheData : Prop :=
  ∀ s s' t t' : State, s.phase ≠ .idle → s'.phase = s.phase → s'.rIdx = s.rIdx → s'.op = s.op →
    s.inputs = [] → s'.inputs = [] → step s = .next t → step s' = .next t' → t'.phase = t.phase ∧ t'.rIdx = t.rIdx
end

