-- ==== Sys2Proof/Laws/Bits.lean ====
section
/-! SUPPORT. What the bit-level functions give, bit by bit. -/

namespace Sys2Proof.Machine

theorem getBit_eq_getLsbD {W : Nat} (x : BitVec W) (p : Nat) (h : inWord W p) : getBit x p h = x.getLsbD (W - p) := by
  unfold getBit
  rw [BitVec.getLsbD_eq_getElem]

/-- Bit i (from the least significant) of a permuted word is the input bit its table entry names. -/
theorem getLsbD_permute {win n : Nat} (x : BitVec win) (t : PermTable win n) (i : Nat) (h : i < n) :
    (permute x t).getLsbD i = x.getLsbD (win - t.entry ⟨n - 1 - i, by omega⟩) := by
  unfold permute
  rw [BitVec.getLsbD_ofFnBE, dif_pos h, getBit_eq_getLsbD]
  congr 3
  simp only [Fin.rev, Fin.mk.injEq]
  omega

@[simp] theorem getLsbD_sourceSlice {W : Nat} (x : BitVec W) (skip len i : Nat) :
    (sourceSlice x skip len).getLsbD i = (decide (i < len) && x.getLsbD (W - skip - len + i)) := by
  unfold sourceSlice
  rw [BitVec.getLsbD_extractLsb']

@[simp] theorem getLsbD_rightWord (W : Nat) (c : Block) (i : Nat) :
    (rightWord W c).getLsbD i = (decide (i < W) && c.getLsbD i) := by
  unfold rightWord
  rw [BitVec.getLsbD_extractLsb', Nat.zero_add]

@[simp] theorem getLsbD_leftWord (W : Nat) (c : Block) (i : Nat) :
    (leftWord W c).getLsbD i = (decide (i < W) && c.getLsbD (64 - W + i)) := by
  unfold leftWord
  rw [BitVec.getLsbD_extractLsb']

@[simp] theorem getLsbD_rightAligned {W : Nat} (x : BitVec W) (i : Nat) :
    (rightAligned x).getLsbD i = (decide (i < 64) && x.getLsbD i) := by
  unfold rightAligned
  rw [BitVec.getLsbD_setWidth]

@[simp] theorem getLsbD_segmentXor {W : Nat} (a b : BitVec W) (skip len i : Nat) :
    (segmentXor a b skip len).getLsbD i =
      ((sourceSlice a skip len).getLsbD i ^^ (sourceSlice b skip len).getLsbD i) := by
  unfold segmentXor
  rw [BitVec.getLsbD_xor]

/-- Bit j of a word with one position replaced. -/
theorem getLsbD_setBit {W : Nat} (x : BitVec W) (p : Nat) (v : Bool) (h : inWord W p) (j : Nat) (hj : j < W) :
    (setBit x p v h).getLsbD j = if j = W - p then v else x.getLsbD j := by
  obtain ⟨h1, h2⟩ := h
  unfold setBit
  rw [BitVec.getLsbD_ofFnBE, dif_pos hj]
  simp only [Fin.rev, getBit_eq_getLsbD]
  by_cases hc : j = W - p
  · rw [if_pos hc, if_pos (by omega)]
  · rw [if_neg hc, if_neg (by omega)]
    congr 1
    omega

theorem keySchedule_toList (k : Block) : (keySchedule k).toList = subkeysFrom (keyHalfC k) (keyHalfD k) rotations := rfl

theorem keySchedule_length (k : Block) : (keySchedule k).toList.length = 16 := by simp

/-- One more round: the rounds of a list with one subkey appended. -/
theorem feistelRounds_append (s m : Triple) (hs : valid48 s) (hm : mix32Domain m) (ks : List Subkey) (k : Subkey)
    (x : Halves) :
    feistelRounds s m hs hm (ks ++ [k]) x = feistelRound k s m hs hm (feistelRounds s m hs hm ks x) := by
  induction ks generalizing x with
  | nil => rfl
  | cons k' rest ih => exact ih _

end Sys2Proof.Machine
end

