-- ==== Sys2Proof/Laws/Encoding.lean ====
section
/-! SUPPORT. The bits and fields of an assembled command word (30_encoding.md R90), and the rows of GETBIT and SETBIT. -/

namespace Sys2Proof

variable (opc p : BitVec 8) (wd : BitVec 7) (v : Bool)

/-- The bits of a command word: OPC, P, WD and V, the reserved bits 0. -/
theorem getLsbD_commandWord (i : Nat) :
    (commandWord opc p wd v).getLsbD i =
      if i < 8 then opc.getLsbD i
      else if i < 16 then p.getLsbD (i - 8)
      else if i < 23 then wd.getLsbD (i - 16)
      else if i = 24 then v else false := by
  unfold commandWord
  simp only [BitVec.getLsbD_append, BitVec.getLsbD_ofBool, BitVec.getLsbD_zero]
  rw [show i - 8 - 8 = i - 16 by omega, show i - 16 - 7 = i - 23 by omega, show i - 23 - 1 = i - 24 by omega]
  by_cases h1 : i < 8
  · simp only [h1, if_true]
  · simp only [h1, if_false]
    by_cases h2 : i < 16
    · simp only [h2, if_true, show i - 8 < 8 by omega]
    · simp only [h2, if_false, show ¬ i - 8 < 8 by omega]
      by_cases h3 : i < 23
      · simp only [h3, if_true, show i - 16 < 7 by omega]
      · simp only [h3, if_false, show ¬ i - 16 < 7 by omega]
        by_cases h4 : i = 24
        · simp [h4]
        · by_cases h5 : i - 23 < 1
          · simp only [h4, h5, if_true, if_false]
          · simp only [h4, h5, if_false, show ¬ i - 24 < 1 by omega]

@[simp] theorem fieldOpc_commandWord : fieldOpc (commandWord opc p wd v) = opc := by
  apply BitVec.eq_of_getLsbD_eq
  intro i hi
  rw [fieldOpc, BitVec.getLsbD_extractLsb', getLsbD_commandWord]
  simp [hi]

@[simp] theorem fieldP_commandWord : fieldP (commandWord opc p wd v) = p := by
  apply BitVec.eq_of_getLsbD_eq
  intro i hi
  rw [fieldP, BitVec.getLsbD_extractLsb', getLsbD_commandWord, if_neg (by omega), if_pos (by omega)]
  simp [hi]

@[simp] theorem fieldWd_commandWord : fieldWd (commandWord opc p wd v) = wd := by
  apply BitVec.eq_of_getLsbD_eq
  intro i hi
  rw [fieldWd, BitVec.getLsbD_extractLsb', getLsbD_commandWord, if_neg (by omega), if_neg (by omega),
    if_pos (by omega)]
  simp [hi]

@[simp] theorem fieldV_commandWord : fieldV (commandWord opc p wd v) = BitVec.ofBool v := by
  apply BitVec.eq_of_getLsbD_eq
  intro i hi
  obtain rfl : i = 0 := by omega
  rw [fieldV, BitVec.getLsbD_extractLsb', getLsbD_commandWord]
  simp

@[simp] theorem fieldReserved23_commandWord : fieldReserved23 (commandWord opc p wd v) = 0 := by
  apply BitVec.eq_of_getLsbD_eq
  intro i hi
  obtain rfl : i = 0 := by omega
  rw [fieldReserved23, BitVec.getLsbD_extractLsb', getLsbD_commandWord]
  simp

@[simp] theorem fieldReservedTop_commandWord : fieldReservedTop (commandWord opc p wd v) = 0 := by
  apply BitVec.eq_of_getLsbD_eq
  intro i hi
  rw [fieldReservedTop, BitVec.getLsbD_extractLsb', getLsbD_commandWord, if_neg (by omega), if_neg (by omega),
    if_neg (by omega), if_neg (by omega)]
  simp

/-- The word of GETBIT under its row's mask. -/
theorem commandWord_getbit_masked : commandWord 0x10 p wd false &&& 0xFF8000FF#32 = 0x10#32 := by
  apply BitVec.eq_of_getLsbD_eq
  intro i hi
  rw [BitVec.getLsbD_and, getLsbD_commandWord]
  interval_cases i <;> simp

/-- The word of SETBIT under its row's mask. -/
theorem commandWord_setbit_masked : commandWord 0x11 p wd v &&& 0xFE8000FF#32 = 0x11#32 := by
  apply BitVec.eq_of_getLsbD_eq
  intro i hi
  rw [BitVec.getLsbD_and, getLsbD_commandWord]
  interval_cases i <;> simp

end Sys2Proof
end

