-- ==== Sys2Proof/Laws/State.lean ====
section
/-! SUPPORT. One lemma per field per update of State, so that no later proof unfolds a record update. -/

namespace Sys2Proof.Machine

/-! ### clearOutcome -/

@[simp] theorem clearOutcome_key (s : State) : (clearOutcome s).key = s.key := rfl
@[simp] theorem clearOutcome_blk (s : State) : (clearOutcome s).blk = s.blk := rfl
@[simp] theorem clearOutcome_opb (s : State) : (clearOutcome s).opb = s.opb := rfl
@[simp] theorem clearOutcome_out (s : State) : (clearOutcome s).out = s.out := rfl
@[simp] theorem clearOutcome_l (s : State) : (clearOutcome s).l = s.l := rfl
@[simp] theorem clearOutcome_r (s : State) : (clearOutcome s).r = s.r := rfl
@[simp] theorem clearOutcome_sk (s : State) : (clearOutcome s).sk = s.sk := rfl
@[simp] theorem clearOutcome_skidx (s : State) : (clearOutcome s).skidx = s.skidx := rfl
@[simp] theorem clearOutcome_seg (s : State) : (clearOutcome s).seg = s.seg := rfl
@[simp] theorem clearOutcome_segp (s : State) : (clearOutcome s).segp = s.segp := rfl
@[simp] theorem clearOutcome_done (s : State) : (clearOutcome s).done = false := rfl
@[simp] theorem clearOutcome_err (s : State) : (clearOutcome s).err = false := rfl
@[simp] theorem clearOutcome_skValid (s : State) : (clearOutcome s).skValid = s.skValid := rfl
@[simp] theorem clearOutcome_busyErr (s : State) : (clearOutcome s).busyErr = s.busyErr := rfl
@[simp] theorem clearOutcome_errCode (s : State) : (clearOutcome s).errCode = .none := rfl
@[simp] theorem clearOutcome_phase (s : State) : (clearOutcome s).phase = s.phase := rfl
@[simp] theorem clearOutcome_rIdx (s : State) : (clearOutcome s).rIdx = s.rIdx := rfl
@[simp] theorem clearOutcome_op (s : State) : (clearOutcome s).op = s.op := rfl
@[simp] theorem clearOutcome_inputs (s : State) : (clearOutcome s).inputs = s.inputs := rfl
@[simp] theorem clearOutcome_responses (s : State) : (clearOutcome s).responses = s.responses := rfl

/-! ### reject -/

@[simp] theorem reject_key (c : ErrCode) (s : State) : (reject c s).key = s.key := rfl
@[simp] theorem reject_blk (c : ErrCode) (s : State) : (reject c s).blk = s.blk := rfl
@[simp] theorem reject_opb (c : ErrCode) (s : State) : (reject c s).opb = s.opb := rfl
@[simp] theorem reject_out (c : ErrCode) (s : State) : (reject c s).out = s.out := rfl
@[simp] theorem reject_l (c : ErrCode) (s : State) : (reject c s).l = s.l := rfl
@[simp] theorem reject_r (c : ErrCode) (s : State) : (reject c s).r = s.r := rfl
@[simp] theorem reject_sk (c : ErrCode) (s : State) : (reject c s).sk = s.sk := rfl
@[simp] theorem reject_skidx (c : ErrCode) (s : State) : (reject c s).skidx = s.skidx := rfl
@[simp] theorem reject_seg (c : ErrCode) (s : State) : (reject c s).seg = s.seg := rfl
@[simp] theorem reject_segp (c : ErrCode) (s : State) : (reject c s).segp = s.segp := rfl
@[simp] theorem reject_done (c : ErrCode) (s : State) : (reject c s).done = false := rfl
@[simp] theorem reject_err (c : ErrCode) (s : State) : (reject c s).err = true := rfl
@[simp] theorem reject_skValid (c : ErrCode) (s : State) : (reject c s).skValid = s.skValid := rfl
@[simp] theorem reject_busyErr (c : ErrCode) (s : State) : (reject c s).busyErr = s.busyErr := rfl
@[simp] theorem reject_errCode (c : ErrCode) (s : State) : (reject c s).errCode = c := rfl
@[simp] theorem reject_phase (c : ErrCode) (s : State) : (reject c s).phase = s.phase := rfl
@[simp] theorem reject_rIdx (c : ErrCode) (s : State) : (reject c s).rIdx = s.rIdx := rfl
@[simp] theorem reject_op (c : ErrCode) (s : State) : (reject c s).op = s.op := rfl
@[simp] theorem reject_inputs (c : ErrCode) (s : State) : (reject c s).inputs = s.inputs := rfl
@[simp] theorem reject_responses (c : ErrCode) (s : State) : (reject c s).responses = s.responses := rfl

/-! ### complete -/

@[simp] theorem complete_key (s : State) : (complete s).key = s.key := rfl
@[simp] theorem complete_blk (s : State) : (complete s).blk = s.blk := rfl
@[simp] theorem complete_opb (s : State) : (complete s).opb = s.opb := rfl
@[simp] theorem complete_out (s : State) : (complete s).out = s.out := rfl
@[simp] theorem complete_l (s : State) : (complete s).l = s.l := rfl
@[simp] theorem complete_r (s : State) : (complete s).r = s.r := rfl
@[simp] theorem complete_sk (s : State) : (complete s).sk = s.sk := rfl
@[simp] theorem complete_skidx (s : State) : (complete s).skidx = s.skidx := rfl
@[simp] theorem complete_seg (s : State) : (complete s).seg = s.seg := rfl
@[simp] theorem complete_segp (s : State) : (complete s).segp = s.segp := rfl
@[simp] theorem complete_done (s : State) : (complete s).done = true := rfl
@[simp] theorem complete_err (s : State) : (complete s).err = s.err := rfl
@[simp] theorem complete_skValid (s : State) : (complete s).skValid = s.skValid := rfl
@[simp] theorem complete_busyErr (s : State) : (complete s).busyErr = s.busyErr := rfl
@[simp] theorem complete_errCode (s : State) : (complete s).errCode = s.errCode := rfl
@[simp] theorem complete_phase (s : State) : (complete s).phase = .idle := rfl
@[simp] theorem complete_rIdx (s : State) : (complete s).rIdx = s.rIdx := rfl
@[simp] theorem complete_op (s : State) : (complete s).op = s.op := rfl
@[simp] theorem complete_inputs (s : State) : (complete s).inputs = s.inputs := rfl
@[simp] theorem complete_responses (s : State) : (complete s).responses = s.responses := rfl

/-! ### noteDropped -/

@[simp] theorem noteDropped_key (s : State) : (noteDropped s).key = s.key := rfl
@[simp] theorem noteDropped_blk (s : State) : (noteDropped s).blk = s.blk := rfl
@[simp] theorem noteDropped_opb (s : State) : (noteDropped s).opb = s.opb := rfl
@[simp] theorem noteDropped_out (s : State) : (noteDropped s).out = s.out := rfl
@[simp] theorem noteDropped_l (s : State) : (noteDropped s).l = s.l := rfl
@[simp] theorem noteDropped_r (s : State) : (noteDropped s).r = s.r := rfl
@[simp] theorem noteDropped_sk (s : State) : (noteDropped s).sk = s.sk := rfl
@[simp] theorem noteDropped_skidx (s : State) : (noteDropped s).skidx = s.skidx := rfl
@[simp] theorem noteDropped_seg (s : State) : (noteDropped s).seg = s.seg := rfl
@[simp] theorem noteDropped_segp (s : State) : (noteDropped s).segp = s.segp := rfl
@[simp] theorem noteDropped_done (s : State) : (noteDropped s).done = s.done := rfl
@[simp] theorem noteDropped_err (s : State) : (noteDropped s).err = s.err := rfl
@[simp] theorem noteDropped_skValid (s : State) : (noteDropped s).skValid = s.skValid := rfl
@[simp] theorem noteDropped_busyErr (s : State) : (noteDropped s).busyErr = true := rfl
@[simp] theorem noteDropped_errCode (s : State) : (noteDropped s).errCode = s.errCode := rfl
@[simp] theorem noteDropped_phase (s : State) : (noteDropped s).phase = s.phase := rfl
@[simp] theorem noteDropped_rIdx (s : State) : (noteDropped s).rIdx = s.rIdx := rfl
@[simp] theorem noteDropped_op (s : State) : (noteDropped s).op = s.op := rfl
@[simp] theorem noteDropped_inputs (s : State) : (noteDropped s).inputs = s.inputs := rfl
@[simp] theorem noteDropped_responses (s : State) : (noteDropped s).responses = s.responses := rfl

/-! ### respond -/

@[simp] theorem respond_key (a : Response) (s : State) : (respond a s).key = s.key := rfl
@[simp] theorem respond_blk (a : Response) (s : State) : (respond a s).blk = s.blk := rfl
@[simp] theorem respond_opb (a : Response) (s : State) : (respond a s).opb = s.opb := rfl
@[simp] theorem respond_out (a : Response) (s : State) : (respond a s).out = s.out := rfl
@[simp] theorem respond_l (a : Response) (s : State) : (respond a s).l = s.l := rfl
@[simp] theorem respond_r (a : Response) (s : State) : (respond a s).r = s.r := rfl
@[simp] theorem respond_sk (a : Response) (s : State) : (respond a s).sk = s.sk := rfl
@[simp] theorem respond_skidx (a : Response) (s : State) : (respond a s).skidx = s.skidx := rfl
@[simp] theorem respond_seg (a : Response) (s : State) : (respond a s).seg = s.seg := rfl
@[simp] theorem respond_segp (a : Response) (s : State) : (respond a s).segp = s.segp := rfl
@[simp] theorem respond_done (a : Response) (s : State) : (respond a s).done = s.done := rfl
@[simp] theorem respond_err (a : Response) (s : State) : (respond a s).err = s.err := rfl
@[simp] theorem respond_skValid (a : Response) (s : State) : (respond a s).skValid = s.skValid := rfl
@[simp] theorem respond_busyErr (a : Response) (s : State) : (respond a s).busyErr = s.busyErr := rfl
@[simp] theorem respond_errCode (a : Response) (s : State) : (respond a s).errCode = s.errCode := rfl
@[simp] theorem respond_phase (a : Response) (s : State) : (respond a s).phase = s.phase := rfl
@[simp] theorem respond_rIdx (a : Response) (s : State) : (respond a s).rIdx = s.rIdx := rfl
@[simp] theorem respond_op (a : Response) (s : State) : (respond a s).op = s.op := rfl
@[simp] theorem respond_inputs (a : Response) (s : State) : (respond a s).inputs = s.inputs := rfl
@[simp] theorem respond_responses (a : Response) (s : State) : (respond a s).responses = a :: s.responses := rfl

/-! ### deliver -/

@[simp] theorem deliver_key (v : Block) (s : State) : (deliver v s).key = s.key := rfl
@[simp] theorem deliver_blk (v : Block) (s : State) : (deliver v s).blk = s.blk := rfl
@[simp] theorem deliver_opb (v : Block) (s : State) : (deliver v s).opb = s.opb := rfl
@[simp] theorem deliver_out (v : Block) (s : State) : (deliver v s).out = v := rfl
@[simp] theorem deliver_l (v : Block) (s : State) : (deliver v s).l = s.l := rfl
@[simp] theorem deliver_r (v : Block) (s : State) : (deliver v s).r = s.r := rfl
@[simp] theorem deliver_sk (v : Block) (s : State) : (deliver v s).sk = s.sk := rfl
@[simp] theorem deliver_skidx (v : Block) (s : State) : (deliver v s).skidx = s.skidx := rfl
@[simp] theorem deliver_seg (v : Block) (s : State) : (deliver v s).seg = s.seg := rfl
@[simp] theorem deliver_segp (v : Block) (s : State) : (deliver v s).segp = s.segp := rfl
@[simp] theorem deliver_done (v : Block) (s : State) : (deliver v s).done = true := rfl
@[simp] theorem deliver_err (v : Block) (s : State) : (deliver v s).err = s.err := rfl
@[simp] theorem deliver_skValid (v : Block) (s : State) : (deliver v s).skValid = s.skValid := rfl
@[simp] theorem deliver_busyErr (v : Block) (s : State) : (deliver v s).busyErr = s.busyErr := rfl
@[simp] theorem deliver_errCode (v : Block) (s : State) : (deliver v s).errCode = s.errCode := rfl
@[simp] theorem deliver_phase (v : Block) (s : State) : (deliver v s).phase = .idle := rfl
@[simp] theorem deliver_rIdx (v : Block) (s : State) : (deliver v s).rIdx = s.rIdx := rfl
@[simp] theorem deliver_op (v : Block) (s : State) : (deliver v s).op = s.op := rfl
@[simp] theorem deliver_inputs (v : Block) (s : State) : (deliver v s).inputs = s.inputs := rfl
@[simp] theorem deliver_responses (v : Block) (s : State) : (deliver v s).responses = s.responses := rfl

/-! ### initialStep -/

@[simp] theorem initialStep_key (s : State) : (initialStep s).key = s.key := rfl
@[simp] theorem initialStep_blk (s : State) : (initialStep s).blk = s.blk := rfl
@[simp] theorem initialStep_opb (s : State) : (initialStep s).opb = s.opb := rfl
@[simp] theorem initialStep_out (s : State) : (initialStep s).out = s.out := rfl
@[simp] theorem initialStep_l (s : State) : (initialStep s).l = (initialHalves s.blk).l := rfl
@[simp] theorem initialStep_r (s : State) : (initialStep s).r = (initialHalves s.blk).r := rfl
@[simp] theorem initialStep_sk (s : State) : (initialStep s).sk = s.sk := rfl
@[simp] theorem initialStep_skidx (s : State) : (initialStep s).skidx = s.skidx := rfl
@[simp] theorem initialStep_seg (s : State) : (initialStep s).seg = s.seg := rfl
@[simp] theorem initialStep_segp (s : State) : (initialStep s).segp = s.segp := rfl
@[simp] theorem initialStep_done (s : State) : (initialStep s).done = s.done := rfl
@[simp] theorem initialStep_err (s : State) : (initialStep s).err = s.err := rfl
@[simp] theorem initialStep_skValid (s : State) : (initialStep s).skValid = s.skValid := rfl
@[simp] theorem initialStep_busyErr (s : State) : (initialStep s).busyErr = s.busyErr := rfl
@[simp] theorem initialStep_errCode (s : State) : (initialStep s).errCode = s.errCode := rfl
@[simp] theorem initialStep_phase (s : State) : (initialStep s).phase = .round := rfl
@[simp] theorem initialStep_rIdx (s : State) : (initialStep s).rIdx = 0 := rfl
@[simp] theorem initialStep_op (s : State) : (initialStep s).op = s.op := rfl
@[simp] theorem initialStep_inputs (s : State) : (initialStep s).inputs = s.inputs := rfl
@[simp] theorem initialStep_responses (s : State) : (initialStep s).responses = s.responses := rfl

/-! ### finalSwapStep -/

@[simp] theorem finalSwapStep_key (s : State) : (finalSwapStep s).key = s.key := rfl
@[simp] theorem finalSwapStep_blk (s : State) : (finalSwapStep s).blk = s.blk := rfl
@[simp] theorem finalSwapStep_opb (s : State) : (finalSwapStep s).opb = s.opb := rfl
@[simp] theorem finalSwapStep_out (s : State) : (finalSwapStep s).out = finalBlock ⟨s.l, s.r⟩ := rfl
@[simp] theorem finalSwapStep_l (s : State) : (finalSwapStep s).l = 0 := rfl
@[simp] theorem finalSwapStep_r (s : State) : (finalSwapStep s).r = 0 := rfl
@[simp] theorem finalSwapStep_sk (s : State) : (finalSwapStep s).sk = Vector.replicate 16 0 := rfl
@[simp] theorem finalSwapStep_skidx (s : State) : (finalSwapStep s).skidx = s.skidx := rfl
@[simp] theorem finalSwapStep_seg (s : State) : (finalSwapStep s).seg = s.seg := rfl
@[simp] theorem finalSwapStep_segp (s : State) : (finalSwapStep s).segp = s.segp := rfl
@[simp] theorem finalSwapStep_done (s : State) : (finalSwapStep s).done = true := rfl
@[simp] theorem finalSwapStep_err (s : State) : (finalSwapStep s).err = s.err := rfl
@[simp] theorem finalSwapStep_skValid (s : State) : (finalSwapStep s).skValid = s.skValid := rfl
@[simp] theorem finalSwapStep_busyErr (s : State) : (finalSwapStep s).busyErr = s.busyErr := rfl
@[simp] theorem finalSwapStep_errCode (s : State) : (finalSwapStep s).errCode = s.errCode := rfl
@[simp] theorem finalSwapStep_phase (s : State) : (finalSwapStep s).phase = .idle := rfl
@[simp] theorem finalSwapStep_rIdx (s : State) : (finalSwapStep s).rIdx = 0 := rfl
@[simp] theorem finalSwapStep_op (s : State) : (finalSwapStep s).op = s.op := rfl
@[simp] theorem finalSwapStep_inputs (s : State) : (finalSwapStep s).inputs = s.inputs := rfl
@[simp] theorem finalSwapStep_responses (s : State) : (finalSwapStep s).responses = s.responses := rfl

/-! ### clearStep -/

@[simp] theorem clearStep_key (s : State) : (clearStep s).key = 0 := rfl
@[simp] theorem clearStep_blk (s : State) : (clearStep s).blk = 0 := rfl
@[simp] theorem clearStep_opb (s : State) : (clearStep s).opb = 0 := rfl
@[simp] theorem clearStep_out (s : State) : (clearStep s).out = 0 := rfl
@[simp] theorem clearStep_l (s : State) : (clearStep s).l = 0 := rfl
@[simp] theorem clearStep_r (s : State) : (clearStep s).r = 0 := rfl
@[simp] theorem clearStep_sk (s : State) : (clearStep s).sk = Vector.replicate 16 0 := rfl
@[simp] theorem clearStep_skidx (s : State) : (clearStep s).skidx = 0 := rfl
@[simp] theorem clearStep_seg (s : State) : (clearStep s).seg = 0x101010 := rfl
@[simp] theorem clearStep_segp (s : State) : (clearStep s).segp = 0x101010 := rfl
@[simp] theorem clearStep_done (s : State) : (clearStep s).done = false := rfl
@[simp] theorem clearStep_err (s : State) : (clearStep s).err = false := rfl
@[simp] theorem clearStep_skValid (s : State) : (clearStep s).skValid = false := rfl
@[simp] theorem clearStep_busyErr (s : State) : (clearStep s).busyErr = false := rfl
@[simp] theorem clearStep_errCode (s : State) : (clearStep s).errCode = .none := rfl
@[simp] theorem clearStep_phase (s : State) : (clearStep s).phase = .idle := rfl
@[simp] theorem clearStep_rIdx (s : State) : (clearStep s).rIdx = 0 := rfl
@[simp] theorem clearStep_op (s : State) : (clearStep s).op = 0 := rfl
@[simp] theorem clearStep_inputs (s : State) : (clearStep s).inputs = s.inputs := rfl
@[simp] theorem clearStep_responses (s : State) : (clearStep s).responses = s.responses := rfl

/-! ### resetEvent -/

@[simp] theorem resetEvent_key (s : State) : (resetEvent s).key = State.reset.key := rfl
@[simp] theorem resetEvent_blk (s : State) : (resetEvent s).blk = State.reset.blk := rfl
@[simp] theorem resetEvent_opb (s : State) : (resetEvent s).opb = State.reset.opb := rfl
@[simp] theorem resetEvent_out (s : State) : (resetEvent s).out = State.reset.out := rfl
@[simp] theorem resetEvent_l (s : State) : (resetEvent s).l = State.reset.l := rfl
@[simp] theorem resetEvent_r (s : State) : (resetEvent s).r = State.reset.r := rfl
@[simp] theorem resetEvent_sk (s : State) : (resetEvent s).sk = State.reset.sk := rfl
@[simp] theorem resetEvent_skidx (s : State) : (resetEvent s).skidx = State.reset.skidx := rfl
@[simp] theorem resetEvent_seg (s : State) : (resetEvent s).seg = State.reset.seg := rfl
@[simp] theorem resetEvent_segp (s : State) : (resetEvent s).segp = State.reset.segp := rfl
@[simp] theorem resetEvent_done (s : State) : (resetEvent s).done = State.reset.done := rfl
@[simp] theorem resetEvent_err (s : State) : (resetEvent s).err = State.reset.err := rfl
@[simp] theorem resetEvent_skValid (s : State) : (resetEvent s).skValid = State.reset.skValid := rfl
@[simp] theorem resetEvent_busyErr (s : State) : (resetEvent s).busyErr = State.reset.busyErr := rfl
@[simp] theorem resetEvent_errCode (s : State) : (resetEvent s).errCode = State.reset.errCode := rfl
@[simp] theorem resetEvent_phase (s : State) : (resetEvent s).phase = State.reset.phase := rfl
@[simp] theorem resetEvent_rIdx (s : State) : (resetEvent s).rIdx = State.reset.rIdx := rfl
@[simp] theorem resetEvent_op (s : State) : (resetEvent s).op = State.reset.op := rfl
@[simp] theorem resetEvent_inputs (s : State) : (resetEvent s).inputs = s.inputs := rfl
@[simp] theorem resetEvent_responses (s : State) : (resetEvent s).responses = s.responses := rfl

/-! ### withCommand -/

@[simp] theorem withCommand_key (w : Word) (s : State) : (withCommand w s).key = s.key := rfl
@[simp] theorem withCommand_blk (w : Word) (s : State) : (withCommand w s).blk = s.blk := rfl
@[simp] theorem withCommand_opb (w : Word) (s : State) : (withCommand w s).opb = s.opb := rfl
@[simp] theorem withCommand_out (w : Word) (s : State) : (withCommand w s).out = s.out := rfl
@[simp] theorem withCommand_l (w : Word) (s : State) : (withCommand w s).l = s.l := rfl
@[simp] theorem withCommand_r (w : Word) (s : State) : (withCommand w s).r = s.r := rfl
@[simp] theorem withCommand_sk (w : Word) (s : State) : (withCommand w s).sk = s.sk := rfl
@[simp] theorem withCommand_skidx (w : Word) (s : State) : (withCommand w s).skidx = s.skidx := rfl
@[simp] theorem withCommand_seg (w : Word) (s : State) : (withCommand w s).seg = s.seg := rfl
@[simp] theorem withCommand_segp (w : Word) (s : State) : (withCommand w s).segp = s.segp := rfl
@[simp] theorem withCommand_done (w : Word) (s : State) : (withCommand w s).done = s.done := rfl
@[simp] theorem withCommand_err (w : Word) (s : State) : (withCommand w s).err = s.err := rfl
@[simp] theorem withCommand_skValid (w : Word) (s : State) : (withCommand w s).skValid = s.skValid := rfl
@[simp] theorem withCommand_busyErr (w : Word) (s : State) : (withCommand w s).busyErr = s.busyErr := rfl
@[simp] theorem withCommand_errCode (w : Word) (s : State) : (withCommand w s).errCode = s.errCode := rfl
@[simp] theorem withCommand_phase (w : Word) (s : State) : (withCommand w s).phase = .idle := rfl
@[simp] theorem withCommand_rIdx (w : Word) (s : State) : (withCommand w s).rIdx = s.rIdx := rfl
@[simp] theorem withCommand_op (w : Word) (s : State) : (withCommand w s).op = s.op := rfl
@[simp] theorem withCommand_inputs (w : Word) (s : State) : (withCommand w s).inputs = .hostWrite 0 w :: s.inputs := rfl
@[simp] theorem withCommand_responses (w : Word) (s : State) : (withCommand w s).responses = s.responses := rfl

/-! ### accept -/

@[simp] theorem accept_key (w : Word) (s : State) : (accept w s).key = s.key := rfl
@[simp] theorem accept_blk (w : Word) (s : State) : (accept w s).blk = s.blk := rfl
@[simp] theorem accept_opb (w : Word) (s : State) : (accept w s).opb = s.opb := rfl
@[simp] theorem accept_out (w : Word) (s : State) : (accept w s).out = s.out := rfl
@[simp] theorem accept_l (w : Word) (s : State) : (accept w s).l = s.l := rfl
@[simp] theorem accept_r (w : Word) (s : State) : (accept w s).r = s.r := rfl
@[simp] theorem accept_sk (w : Word) (s : State) : (accept w s).sk = s.sk := rfl
@[simp] theorem accept_skidx (w : Word) (s : State) : (accept w s).skidx = s.skidx := rfl
@[simp] theorem accept_seg (w : Word) (s : State) : (accept w s).seg = s.seg := rfl
@[simp] theorem accept_segp (w : Word) (s : State) : (accept w s).segp = s.segp := rfl
@[simp] theorem accept_done (w : Word) (s : State) : (accept w s).done = false := rfl
@[simp] theorem accept_err (w : Word) (s : State) : (accept w s).err = false := rfl
@[simp] theorem accept_skValid (w : Word) (s : State) : (accept w s).skValid = if startsWithSchedule w then false else s.skValid := rfl
@[simp] theorem accept_busyErr (w : Word) (s : State) : (accept w s).busyErr = s.busyErr := rfl
@[simp] theorem accept_errCode (w : Word) (s : State) : (accept w s).errCode = .none := rfl
@[simp] theorem accept_phase (w : Word) (s : State) : (accept w s).phase = if startsWithSchedule w then .keySched else .exec := rfl
@[simp] theorem accept_rIdx (w : Word) (s : State) : (accept w s).rIdx = s.rIdx := rfl
@[simp] theorem accept_op (w : Word) (s : State) : (accept w s).op = w := rfl
@[simp] theorem accept_inputs (w : Word) (s : State) : (accept w s).inputs = s.inputs := rfl
@[simp] theorem accept_responses (w : Word) (s : State) : (accept w s).responses = s.responses := rfl

/-! ### keySchedStep -/

@[simp] theorem keySchedStep_key (s : State) : (keySchedStep s).key = s.key := by
  unfold keySchedStep; split <;> rfl
@[simp] theorem keySchedStep_blk (s : State) : (keySchedStep s).blk = s.blk := by
  unfold keySchedStep; split <;> rfl
@[simp] theorem keySchedStep_opb (s : State) : (keySchedStep s).opb = s.opb := by
  unfold keySchedStep; split <;> rfl
@[simp] theorem keySchedStep_out (s : State) : (keySchedStep s).out = s.out := by
  unfold keySchedStep; split <;> rfl
@[simp] theorem keySchedStep_l (s : State) : (keySchedStep s).l = s.l := by
  unfold keySchedStep; split <;> rfl
@[simp] theorem keySchedStep_r (s : State) : (keySchedStep s).r = s.r := by
  unfold keySchedStep; split <;> rfl
@[simp] theorem keySchedStep_sk (s : State) : (keySchedStep s).sk = keySchedule s.key := by
  unfold keySchedStep; split <;> rfl
@[simp] theorem keySchedStep_skidx (s : State) : (keySchedStep s).skidx = s.skidx := by
  unfold keySchedStep; split <;> rfl
@[simp] theorem keySchedStep_seg (s : State) : (keySchedStep s).seg = s.seg := by
  unfold keySchedStep; split <;> rfl
@[simp] theorem keySchedStep_segp (s : State) : (keySchedStep s).segp = s.segp := by
  unfold keySchedStep; split <;> rfl
@[simp] theorem keySchedStep_done (s : State) : (keySchedStep s).done = if fieldOpc s.op = 0x01 then s.done else true := by
  unfold keySchedStep; split <;> rfl
@[simp] theorem keySchedStep_err (s : State) : (keySchedStep s).err = s.err := by
  unfold keySchedStep; split <;> rfl
@[simp] theorem keySchedStep_skValid (s : State) : (keySchedStep s).skValid = if fieldOpc s.op = 0x01 then s.skValid else true := by
  unfold keySchedStep; split <;> rfl
@[simp] theorem keySchedStep_busyErr (s : State) : (keySchedStep s).busyErr = s.busyErr := by
  unfold keySchedStep; split <;> rfl
@[simp] theorem keySchedStep_errCode (s : State) : (keySchedStep s).errCode = s.errCode := by
  unfold keySchedStep; split <;> rfl
@[simp] theorem keySchedStep_phase (s : State) : (keySchedStep s).phase = if fieldOpc s.op = 0x01 then .initial else .idle := by
  unfold keySchedStep; split <;> rfl
@[simp] theorem keySchedStep_rIdx (s : State) : (keySchedStep s).rIdx = s.rIdx := by
  unfold keySchedStep; split <;> rfl
@[simp] theorem keySchedStep_op (s : State) : (keySchedStep s).op = s.op := by
  unfold keySchedStep; split <;> rfl
@[simp] theorem keySchedStep_inputs (s : State) : (keySchedStep s).inputs = s.inputs := by
  unfold keySchedStep; split <;> rfl
@[simp] theorem keySchedStep_responses (s : State) : (keySchedStep s).responses = s.responses := by
  unfold keySchedStep; split <;> rfl

/-! ### advanceRound -/

@[simp] theorem advanceRound_key (x : Halves) (s : State) : (advanceRound x s).key = s.key := rfl
@[simp] theorem advanceRound_blk (x : Halves) (s : State) : (advanceRound x s).blk = s.blk := rfl
@[simp] theorem advanceRound_opb (x : Halves) (s : State) : (advanceRound x s).opb = s.opb := rfl
@[simp] theorem advanceRound_out (x : Halves) (s : State) : (advanceRound x s).out = s.out := rfl
@[simp] theorem advanceRound_l (x : Halves) (s : State) : (advanceRound x s).l = x.l := rfl
@[simp] theorem advanceRound_r (x : Halves) (s : State) : (advanceRound x s).r = x.r := rfl
@[simp] theorem advanceRound_sk (x : Halves) (s : State) : (advanceRound x s).sk = s.sk := rfl
@[simp] theorem advanceRound_skidx (x : Halves) (s : State) : (advanceRound x s).skidx = s.skidx := rfl
@[simp] theorem advanceRound_seg (x : Halves) (s : State) : (advanceRound x s).seg = s.seg := rfl
@[simp] theorem advanceRound_segp (x : Halves) (s : State) : (advanceRound x s).segp = s.segp := rfl
@[simp] theorem advanceRound_done (x : Halves) (s : State) : (advanceRound x s).done = s.done := rfl
@[simp] theorem advanceRound_err (x : Halves) (s : State) : (advanceRound x s).err = s.err := rfl
@[simp] theorem advanceRound_skValid (x : Halves) (s : State) : (advanceRound x s).skValid = s.skValid := rfl
@[simp] theorem advanceRound_busyErr (x : Halves) (s : State) : (advanceRound x s).busyErr = s.busyErr := rfl
@[simp] theorem advanceRound_errCode (x : Halves) (s : State) : (advanceRound x s).errCode = s.errCode := rfl
@[simp] theorem advanceRound_phase (x : Halves) (s : State) : (advanceRound x s).phase = if s.rIdx.toNat < 15 then s.phase else .finalSwap := rfl
@[simp] theorem advanceRound_rIdx (x : Halves) (s : State) : (advanceRound x s).rIdx = if s.rIdx.toNat < 15 then s.rIdx + 1 else s.rIdx := rfl
@[simp] theorem advanceRound_op (x : Halves) (s : State) : (advanceRound x s).op = s.op := rfl
@[simp] theorem advanceRound_inputs (x : Halves) (s : State) : (advanceRound x s).inputs = s.inputs := rfl
@[simp] theorem advanceRound_responses (x : Halves) (s : State) : (advanceRound x s).responses = s.responses := rfl

/-! ### writeStatus -/

@[simp] theorem writeStatus_key (v : Word) (s : State) : (writeStatus v s).key = s.key := rfl
@[simp] theorem writeStatus_blk (v : Word) (s : State) : (writeStatus v s).blk = s.blk := rfl
@[simp] theorem writeStatus_opb (v : Word) (s : State) : (writeStatus v s).opb = s.opb := rfl
@[simp] theorem writeStatus_out (v : Word) (s : State) : (writeStatus v s).out = s.out := rfl
@[simp] theorem writeStatus_l (v : Word) (s : State) : (writeStatus v s).l = s.l := rfl
@[simp] theorem writeStatus_r (v : Word) (s : State) : (writeStatus v s).r = s.r := rfl
@[simp] theorem writeStatus_sk (v : Word) (s : State) : (writeStatus v s).sk = s.sk := rfl
@[simp] theorem writeStatus_skidx (v : Word) (s : State) : (writeStatus v s).skidx = s.skidx := rfl
@[simp] theorem writeStatus_seg (v : Word) (s : State) : (writeStatus v s).seg = s.seg := rfl
@[simp] theorem writeStatus_segp (v : Word) (s : State) : (writeStatus v s).segp = s.segp := rfl
@[simp] theorem writeStatus_done (v : Word) (s : State) : (writeStatus v s).done = s.done := rfl
@[simp] theorem writeStatus_err (v : Word) (s : State) : (writeStatus v s).err = s.err := rfl
@[simp] theorem writeStatus_skValid (v : Word) (s : State) : (writeStatus v s).skValid = s.skValid := rfl
@[simp] theorem writeStatus_busyErr (v : Word) (s : State) : (writeStatus v s).busyErr = if v.getLsbD 4 then false else s.busyErr := rfl
@[simp] theorem writeStatus_errCode (v : Word) (s : State) : (writeStatus v s).errCode = s.errCode := rfl
@[simp] theorem writeStatus_phase (v : Word) (s : State) : (writeStatus v s).phase = s.phase := rfl
@[simp] theorem writeStatus_rIdx (v : Word) (s : State) : (writeStatus v s).rIdx = s.rIdx := rfl
@[simp] theorem writeStatus_op (v : Word) (s : State) : (writeStatus v s).op = s.op := rfl
@[simp] theorem writeStatus_inputs (v : Word) (s : State) : (writeStatus v s).inputs = s.inputs := rfl
@[simp] theorem writeStatus_responses (v : Word) (s : State) : (writeStatus v s).responses = s.responses := rfl

end Sys2Proof.Machine
end

