-- ==== Sys2Proof/Laws/Ops.lean ====
section
/-! SUPPORT. For each shared operation, once, everything it can do: the checks, one transition of a command in each phase,
the phase steps, the register map, and the next event. -/

namespace Sys2Proof.Machine

open Sys2Proof.Safety (verdict)

/-! ### The checks -/

theorem firstFailing_eq_none {l : List (Bool × ErrCode)} : firstFailing l = none ↔ ∀ p ∈ l, p.1 = false := by
  induction l with
  | nil => simp [firstFailing]
  | cons p rest ih =>
    obtain ⟨fails, code⟩ := p
    cases fails <;> simp [firstFailing, ih]

theorem checkEncrypt_eq_none {wired : Bool} {s : State} :
    checkEncrypt wired s = none ↔
      valid48 (primaryTriple s) ∧ valid48 (secondaryTriple s) ∧ seg32OK (siteTriple wired s) := by
  simp only [checkEncrypt, firstFailing_eq_none, List.mem_cons, List.not_mem_nil, or_false, forall_eq_or_imp,
    forall_eq, decide_eq_false_iff_not, not_not]

theorem checkMix48_eq_none {t : Triple} {code : ErrCode} : checkMix48 t code = none ↔ valid48 t := by
  simp only [checkMix48, firstFailing_eq_none, List.mem_singleton, forall_eq, decide_eq_false_iff_not, not_not]

theorem checkMix32_eq_none {t : Triple} {code : ErrCode} : checkMix32 t code = none ↔ mix32Domain t := by
  simp only [checkMix32, firstFailing_eq_none, List.mem_cons, List.not_mem_nil, or_false, forall_eq_or_imp, forall_eq,
    decide_eq_false_iff_not, not_not]

theorem checkBitPosition_eq_none {p wd : Nat} : checkBitPosition p wd = none ↔ bitPositionOk p wd := by
  simp only [checkBitPosition, firstFailing_eq_none, List.mem_singleton, forall_eq, decide_eq_false_iff_not, not_not]

/-- The site triple of a state that passed ENCRYPT's checks is in the domain of Mix32. -/
theorem siteTriple_mix32Domain {wired : Bool} {s : State} (h : checkEncrypt wired s = none) :
    mix32Domain (siteTriple wired s) := by
  obtain ⟨h1, h2, h3⟩ := checkEncrypt_eq_none.mp h
  refine ⟨?_, h3⟩
  cases wired
  · exact h1
  · exact h2

/-! ### One transition of a command, phase by phase -/

section Transact

variable {i : Instr} {v : State → Option ErrCode} {e : State → Result} {s : State}

theorem transact_idle (h : s.phase = .idle) : transact i v e s = .next (issue i (v s) s) := by
  simp only [transact, h]

theorem transact_keySched (h : s.phase = .keySched) : transact i v e s = .next (keySchedStep s) := by
  simp only [transact, h]

theorem transact_initial (h : s.phase = .initial) : transact i v e s = .next (initialStep s) := by
  simp only [transact, h]

theorem transact_round (h : s.phase = .round) : transact i v e s = roundStep Config.segpWired s := by
  simp only [transact, h]

theorem transact_finalSwap (h : s.phase = .finalSwap) : transact i v e s = .next (finalSwapStep s) := by
  simp only [transact, h]

theorem transact_exec (h : s.phase = .exec) : transact i v e s = e s := by
  simp only [transact, h]

/-- Everything one transition of a command can do when it answers a next state. -/
theorem transact_next {t : State} (h : transact i v e s = .next t) :
    (s.phase = .idle ∧ t = issue i (v s) s) ∨ (s.phase = .keySched ∧ t = keySchedStep s) ∨
    (s.phase = .initial ∧ t = initialStep s) ∨ (s.phase = .round ∧ roundStep Config.segpWired s = .next t) ∨
    (s.phase = .finalSwap ∧ t = finalSwapStep s) ∨ (s.phase = .exec ∧ e s = .next t) := by
  cases hp : s.phase <;> simp only [transact, hp, Host.Outcome.next.injEq] at h <;> simp_all

end Transact

/-- The Exec step of a command (46_control_and_host_access.md R265). -/
def execStepOf : Instr → State → Result
  | .nop => fun s => .next (complete s)
  | .encrypt => fun _ => .fault .noExecStep
  | .ksched => fun _ => .fault .noExecStep
  | .clear => fun s => .next (clearStep s)
  | .getbit p wd => getbitStep p wd
  | .setbit p wd v => setbitStep p wd v
  | .permuteIp => fun s => .next (deliver (leftAligned (permute (leftWord 64 s.blk) tableIP)) s)
  | .permuteFp => fun s => .next (deliver (leftAligned (permute (leftWord 64 s.blk) tableFP)) s)
  | .permutePc1 => fun s => .next (deliver (leftAligned (permute (leftWord 64 s.blk) tablePC1)) s)
  | .permutePc2 => fun s => .next (deliver (leftAligned (permute (leftWord 56 s.blk) tablePC2)) s)
  | .expand => fun s => .next (deliver (rightAligned (expand (rightWord 32 s.blk))) s)
  | .subst => fun s => .next (deliver (rightAligned (substitute (rightWord 48 s.blk))) s)
  | .sperm => fun s => .next (deliver (rightAligned (straight (rightWord 32 s.blk))) s)
  | .mix48Seg => fun s => mix48Step (primaryTriple s) s
  | .mix48Segp => fun s => mix48Step (secondaryTriple s) s
  | .mix32Seg => fun s => mix32Step (primaryTriple s) s
  | .mix32Segp => fun s => mix32Step (secondaryTriple s) s

/-- Every meaning is one transition with the command's own checks and Exec step. -/
theorem exec_eq_transact (i : Instr) (s : State) : exec i s = transact i (verdict i) (execStepOf i) s := by
  cases i <;> rfl

/-! ### The steps inside the domains -/

theorem roundStep_of_valid {wired : Bool} {s : State} (hs : valid48 (primaryTriple s))
    (hm : mix32Domain (siteTriple wired s)) :
    roundStep wired s = .next (advanceRound
      (feistelRound (currentSubkey s) (primaryTriple s) (siteTriple wired s) hs hm ⟨s.l, s.r⟩) s) :=
  dif_pos ⟨hs, hm⟩

theorem getbitStep_of_ok {p wd : Nat} {s : State} (h : bitPositionOk p wd) :
    getbitStep p wd s = .next (deliver (rightAligned (BitVec.ofBool (getBit (rightWord wd s.blk) p h.2))) s) :=
  dif_pos h

theorem setbitStep_of_ok {p wd : Nat} {v : Bool} {s : State} (h : bitPositionOk p wd) :
    setbitStep p wd v s = .next (deliver (rightAligned (setBit (rightWord wd s.blk) p v h.2)) s) :=
  dif_pos h

theorem mix48Step_of_valid {t : Triple} {s : State} (h : valid48 t) :
    mix48Step t s = .next (deliver (rightAligned (mix48 (rightWord 48 s.blk) (rightWord 48 s.opb) t h)) s) :=
  dif_pos h

theorem mix32Step_of_domain {t : Triple} {s : State} (h : mix32Domain t) :
    mix32Step t s = .next (deliver (rightAligned (mix32 (rightWord 32 s.blk) (rightWord 32 s.opb) t h)) s) :=
  dif_pos h

/-! ### The register map -/

@[simp] theorem regAt_regOffset (r : HostReg) : regAt (regOffset r) = some r := by
  cases r <;> rfl

/-- An offset names a register exactly when it is a multiple of 4 and at most 0x38. -/
theorem regAt_eq_none {off : Nat} : regAt off = none ↔ (off % 4 ≠ 0 ∨ 0x38 < off) := by
  unfold regAt
  split
  · simp_all
  · rw [List.getElem?_eq_none_iff]
    simp only [List.length_cons, List.length_nil]
    omega

theorem regOffset_of_regAt {off : Nat} {r : HostReg} (h : regAt off = some r) : off = regOffset r := by
  have hv : ¬ (off % 4 ≠ 0 ∨ 0x38 < off) := by
    intro hc
    rw [regAt_eq_none.mpr hc] at h
    cases h
  have hb : off / 4 < 15 := by omega
  have he : off = 4 * (off / 4) := by omega
  generalize off / 4 = q at he hb
  subst he
  interval_cases q <;> cases h <;> rfl

/-! ### The next event -/

theorem nextEvent_nil {s : State} (h : s.inputs = []) : nextEvent s = engineTurn s := by
  simp only [nextEvent, h]

theorem nextEvent_cons {s : State} {e : Event} {rest : List Event} (h : s.inputs = e :: rest) :
    nextEvent s = takeEvent e { s with inputs := rest } := by
  simp only [nextEvent, h]

theorem engineTurn_idle {s : State} (h : s.phase = .idle) : engineTurn s = .next s := if_pos h

theorem engineTurn_busy {s : State} {i : Instr} (h : s.phase ≠ .idle) (hd : decode s.op = .ok i) :
    engineTurn s = exec i s := by
  simp only [engineTurn, if_neg h, hd]

/-- Everything the engine's turn can do when it answers a next state. -/
theorem engineTurn_next {s t : State} (h : engineTurn s = .next t) :
    (s.phase = .idle ∧ t = s) ∨ (s.phase ≠ .idle ∧ ∃ i, decode s.op = .ok i ∧ exec i s = .next t) := by
  unfold engineTurn at h
  split at h
  · rename_i hp
    cases h
    exact .inl ⟨hp, rfl⟩
  · rename_i hp
    split at h
    · rename_i i hd
      exact .inr ⟨hp, i, hd, h⟩
    · cases h

/-- Everything a valid write can do. -/
theorem regWriteValid_eq (r : HostReg) (v : Word) (s : State) :
    (r = .status ∧ regWriteValid r v s = .next (writeStatus v s)) ∨
    (r ≠ .status ∧ s.phase ≠ .idle ∧ regWriteValid r v s = .next (noteDropped s)) ∨
    (r = .cmd ∧ s.phase = .idle ∧ regWriteValid r v s = commandWrite v s) ∨
    (r ≠ .status ∧ r ≠ .cmd ∧ s.phase = .idle ∧ regWriteValid r v s = .next (writeData r v s)) := by
  by_cases h1 : r = .status
  · exact .inl ⟨h1, by simp [regWriteValid, h1]⟩
  · by_cases h2 : s.phase = .idle
    · by_cases h3 : r = .cmd
      · exact .inr (.inr (.inl ⟨h3, h2, by simp [regWriteValid, busy, h2, h3]⟩))
      · exact .inr (.inr (.inr ⟨h1, h3, h2, by simp [regWriteValid, busy, h1, h2, h3]⟩))
    · exact .inr (.inl ⟨h1, h2, by simp [regWriteValid, busy, h1, h2]⟩)

end Sys2Proof.Machine
end

