-- ==== Sys2Proof/Laws/PerInstr.lean ====
section
/-! SUPPORT. Statements about every command as syntax, one lemma per constructor: the word a well-formed command encodes to
selects the row of its mnemonic (30_encoding.md R92). -/

namespace Sys2Proof.Laws.EncodesItsRow

/-- The encoded word selects a row of R92 with the command's mnemonic. -/
def Statement (i : Instr) : Prop :=
  WellFormed i → ∃ row ∈ opcodeRows, row.mnemonic = i.mnemonic ∧ row.selects (encode i) = true

theorem nop : Statement .nop := fun _ => ⟨⟨"NOP", 0x00000000, 0xFFFFFFFF⟩, by decide⟩
theorem encrypt : Statement .encrypt := fun _ => ⟨⟨"ENCRYPT", 0x00000001, 0xFFFFFFFF⟩, by decide⟩
theorem ksched : Statement .ksched := fun _ => ⟨⟨"KSCHED", 0x00000002, 0xFFFFFFFF⟩, by decide⟩
theorem clear : Statement .clear := fun _ => ⟨⟨"CLEAR", 0x00000003, 0xFFFFFFFF⟩, by decide⟩
theorem getbit (p wd : Nat) : Statement (.getbit p wd) := fun _ =>
  ⟨⟨"GETBIT", 0x00000010, 0xFF8000FF⟩, by decide, rfl, beq_iff_eq.mpr (commandWord_getbit_masked _ _)⟩
theorem setbit (p wd : Nat) (v : Bool) : Statement (.setbit p wd v) := fun _ =>
  ⟨⟨"SETBIT", 0x00000011, 0xFE8000FF⟩, by decide, rfl, beq_iff_eq.mpr (commandWord_setbit_masked _ _ _)⟩
theorem permuteIp : Statement .permuteIp := fun _ => ⟨⟨"PERMUTE.IP", 0x00000012, 0xFFFFFFFF⟩, by decide⟩
theorem permuteFp : Statement .permuteFp := fun _ => ⟨⟨"PERMUTE.FP", 0x00000112, 0xFFFFFFFF⟩, by decide⟩
theorem permutePc1 : Statement .permutePc1 := fun _ => ⟨⟨"PERMUTE.PC1", 0x00000212, 0xFFFFFFFF⟩, by decide⟩
theorem permutePc2 : Statement .permutePc2 := fun _ => ⟨⟨"PERMUTE.PC2", 0x00000312, 0xFFFFFFFF⟩, by decide⟩
theorem expand : Statement .expand := fun _ => ⟨⟨"EXPAND", 0x00000013, 0xFFFFFFFF⟩, by decide⟩
theorem subst : Statement .subst := fun _ => ⟨⟨"SUBST", 0x00000014, 0xFFFFFFFF⟩, by decide⟩
theorem sperm : Statement .sperm := fun _ => ⟨⟨"SPERM", 0x00000015, 0xFFFFFFFF⟩, by decide⟩
theorem mix48Seg : Statement .mix48Seg := fun _ => ⟨⟨"MIX48.SEG", 0x00000016, 0xFFFFFFFF⟩, by decide⟩
theorem mix48Segp : Statement .mix48Segp := fun _ => ⟨⟨"MIX48.SEGP", 0x00000116, 0xFFFFFFFF⟩, by decide⟩
theorem mix32Seg : Statement .mix32Seg := fun _ => ⟨⟨"MIX32.SEG", 0x00000017, 0xFFFFFFFF⟩, by decide⟩
theorem mix32Segp : Statement .mix32Segp := fun _ => ⟨⟨"MIX32.SEGP", 0x00000117, 0xFFFFFFFF⟩, by decide⟩

end Sys2Proof.Laws.EncodesItsRow
end

