-- ==== Sys2Proof/Laws/Step.lean ====
section
/-! SUPPORT. Everything one step can do: the engine's turn phase by phase, the host's write case by case, the step event by
event, and the round trip between a command and its word that acceptance rests on. -/

namespace Sys2Proof.Machine

open Sys2Proof.Safety (verdict)

/-! ### The engine's turn -/

/-- A Round step that answers a next state is one round of the cipher in its domain. -/
theorem roundStep_next {wired : Bool} {s t : State} (h : roundStep wired s = .next t) :
    ∃ (hs : valid48 (primaryTriple s)) (hm : mix32Domain (siteTriple wired s)),
      t = advanceRound
        (feistelRound (currentSubkey s) (primaryTriple s) (siteTriple wired s) hs hm ⟨s.l, s.r⟩) s := by
  unfold roundStep at h
  split at h
  · rename_i hv
    cases h
    exact ⟨hv.1, hv.2, rfl⟩
  · cases h

/-- An Exec step that answers a next state is CLEAR's or delivers a result. -/
theorem execStepOf_next {i : Instr} {s t : State} (h : execStepOf i s = .next t) :
    (i = .clear ∧ t = clearStep s) ∨ (i ≠ .clear ∧ ∃ v, t = deliver v s) := by
  cases i <;>
    simp only [execStepOf, getbitStep, setbitStep, mix48Step, mix32Step, reduceCtorEq, Host.Outcome.next.injEq,
      true_and, false_and, or_false, false_or, ne_eq, not_true_eq_false, not_false_eq_true] at h ⊢
  case nop => exact ⟨s.out, h.symm⟩
  case clear => exact h.symm
  case permuteIp => exact ⟨_, h.symm⟩
  case permuteFp => exact ⟨_, h.symm⟩
  case permutePc1 => exact ⟨_, h.symm⟩
  case permutePc2 => exact ⟨_, h.symm⟩
  case expand => exact ⟨_, h.symm⟩
  case subst => exact ⟨_, h.symm⟩
  case sperm => exact ⟨_, h.symm⟩
  all_goals
    split at h
    · cases h
      exact ⟨_, rfl⟩
    · cases h

/-- Everything the engine's turn can do when it answers a next state, phase by phase. -/
theorem engineTurn_cases {s t : State} (h : engineTurn s = .next t) :
    (s.phase = .idle ∧ t = s) ∨
    ∃ i, decode s.op = .ok i ∧
      ((s.phase = .keySched ∧ t = keySchedStep s) ∨ (s.phase = .initial ∧ t = initialStep s) ∨
        (s.phase = .round ∧
          ∃ (hs : valid48 (primaryTriple s)) (hm : mix32Domain (siteTriple Config.segpWired s)),
            t = advanceRound (feistelRound (currentSubkey s) (primaryTriple s) (siteTriple Config.segpWired s)
              hs hm ⟨s.l, s.r⟩) s) ∨
        (s.phase = .finalSwap ∧ t = finalSwapStep s) ∨
        (s.phase = .exec ∧ ((i = .clear ∧ t = clearStep s) ∨ (i ≠ .clear ∧ ∃ v, t = deliver v s)))) := by
  obtain h | ⟨hp, i, hi, h⟩ := engineTurn_next h
  · exact .inl h
  · refine .inr ⟨i, hi, ?_⟩
    rw [exec_eq_transact] at h
    obtain ⟨hq, -⟩ | ⟨hq, h⟩ | ⟨hq, h⟩ | ⟨hq, h⟩ | ⟨hq, h⟩ | ⟨hq, h⟩ := transact_next h
    · exact absurd hq hp
    · exact .inl ⟨hq, h⟩
    · exact .inr (.inl ⟨hq, h⟩)
    · exact .inr (.inr (.inl ⟨hq, roundStep_next h⟩))
    · exact .inr (.inr (.inr (.inl ⟨hq, h⟩)))
    · exact .inr (.inr (.inr (.inr ⟨hq, execStepOf_next h⟩)))

/-! ### The host's write and the step -/

/-- Everything a write can do when it answers a next state. -/
theorem regWrite_cases {off : Nat} {v : Word} {s t : State} (h : regWrite off v s = .next t) :
    (regAt off = none ∧ t = respond .error s) ∨
    (regAt off = some .status ∧ t = writeStatus v (respond .ok s)) ∨
    (s.phase ≠ .idle ∧ t = noteDropped (respond .ok s)) ∨
    (s.phase = .idle ∧ regAt off = some .cmd ∧
      (((∃ e, decode v = .error e) ∧ t = reject .illegalCmd (respond .ok s)) ∨
        ∃ i, decode v = .ok i ∧ t = issue i (verdict i (respond .ok s)) (respond .ok s))) ∨
    (s.phase = .idle ∧ ∃ r, regAt off = some r ∧ r ≠ .status ∧ r ≠ .cmd ∧ t = writeData r v (respond .ok s)) := by
  unfold regWrite at h
  split at h
  · rename_i hr
    cases h
    exact .inl ⟨hr, rfl⟩
  · rename_i r hr
    obtain ⟨h1, h2⟩ | ⟨h1, h2, h3⟩ | ⟨h1, h2, h3⟩ | ⟨h1, h2, h3, h4⟩ := regWriteValid_eq r v (respond .ok s)
    · rw [h2] at h
      cases h
      exact .inr (.inl ⟨h1 ▸ hr, rfl⟩)
    · rw [h3] at h
      cases h
      exact .inr (.inr (.inl ⟨h2, rfl⟩))
    · rw [h3] at h
      refine .inr (.inr (.inr (.inl ⟨h2, h1 ▸ hr, ?_⟩)))
      unfold commandWrite at h
      split at h
      · rename_i e he
        cases h
        exact .inl ⟨⟨e, he⟩, rfl⟩
      · rename_i i hi
        rw [exec_eq_transact, transact_idle h2] at h
        cases h
        exact .inr ⟨i, hi, rfl⟩
    · rw [h4] at h
      cases h
      exact .inr (.inr (.inr (.inr ⟨h3, r, hr, h1, h2, rfl⟩)))

/-- Everything a step can do when it answers a next state, event by event. -/
theorem step_cases {s t : State} (h : step s = .next t) :
    (s.inputs = [] ∧ engineTurn s = .next t) ∨
    ∃ e rest, s.inputs = e :: rest ∧
      ((e = .engine ∧ engineTurn { s with inputs := rest } = .next t) ∨
        (e = .reset ∧ t = resetEvent { s with inputs := rest }) ∨
        (∃ off, e = .hostRead off ∧ t = regRead off { s with inputs := rest }) ∨
        ∃ off v, e = .hostWrite off v ∧ regWrite off v { s with inputs := rest } = .next t) := by
  unfold step at h
  cases hi : s.inputs with
  | nil => exact .inl ⟨rfl, nextEvent_nil hi ▸ h⟩
  | cons e rest =>
    rw [nextEvent_cons hi] at h
    refine .inr ⟨e, rest, rfl, ?_⟩
    cases e with
    | engine => exact .inl ⟨rfl, h⟩
    | reset =>
      cases h
      exact .inr (.inl ⟨rfl, rfl⟩)
    | hostRead off =>
      cases h
      exact .inr (.inr (.inl ⟨off, rfl, rfl⟩))
    | hostWrite off v => exact .inr (.inr (.inr ⟨off, v, rfl, h⟩))

/-! ### The three kinds of command word -/

/-- A command whose word selects phase KeySched is ENCRYPT or KSCHED. -/
theorem startsWithSchedule_encode {i : Instr} : startsWithSchedule (encode i) = true ↔ i = .encrypt ∨ i = .ksched := by
  cases i <;> simp [startsWithSchedule, encode]

end Sys2Proof.Machine
end

