-- ==== Sys2Proof/Machine/Script.lean ====
section
/-! DEFINITION. The host-script notation of 30_encoding.md R101 and R102, as lists of events. The statements that the rules
call host-side (EXPECT, labels, LOOP) are no engine operations and have no events (log 15). -/

namespace Sys2Proof.Machine

/-- The registers that WR64 takes (R102). -/
inductive OperandReg where
  | key
  | blk
  | opb
deriving DecidableEq, Repr

/-- The registers that RD64 takes (R102). -/
inductive WideReg where
  | key
  | blk
  | opb
  | out
  | sk
deriving DecidableEq, Repr

/-- A statement of a host script (R101, R102). -/
inductive ScriptStmt where
  /-- WR reg, v32 -/
  | wr (r : HostReg) (v : Word)
  /-- RD reg -/
  | rd (r : HostReg)
  /-- CMD mnemonic, with the arguments of GETBIT and SETBIT -/
  | cmd (i : Instr)
  /-- CMDW v32 -/
  | cmdw (v : Word)
  /-- WR64 X, v64 -/
  | wr64 (x : OperandReg) (v : Block)
  /-- RD64 X -/
  | rd64 (x : WideReg)
  /-- WRSEG s1, s2, s3 -/
  | wrseg (s1 s2 s3 : BitVec 8)
  /-- WRSEGP s1, s2, s3 -/
  | wrsegp (s1 s2 s3 : BitVec 8)
  /-- WAIT, during which the engine has the given number of turns (log 15) -/
  | wait (turns : Nat)
  /-- ENCRYPT64 pt, key, s1, s2, s3, s1p, s2p, s3p -/
  | encrypt64 (pt k : Block) (s1 s2 s3 s1p s2p s3p : BitVec 8)
deriving DecidableEq, Repr

/-- RegWrite(offset(reg), v). -/
def writeEvent (r : HostReg) (v : Word) : Event := .hostWrite (regOffset r) v

/-- RegRead(offset(reg)). -/
def readEvent (r : HostReg) : Event := .hostRead (regOffset r)

/-- WR64: HI first, then LO (R102). -/
def write64Events (x : OperandReg) (v : Block) : List Event :=
  match x with
  | .key => [writeEvent .keyHi (hiWord v), writeEvent .keyLo (loWord v)]
  | .blk => [writeEvent .blkHi (hiWord v), writeEvent .blkLo (loWord v)]
  | .opb => [writeEvent .opbHi (hiWord v), writeEvent .opbLo (loWord v)]

/-- RD64: HI first, then LO (R102). -/
def read64Events : WideReg → List Event
  | .key => [readEvent .keyHi, readEvent .keyLo]
  | .blk => [readEvent .blkHi, readEvent .blkLo]
  | .opb => [readEvent .opbHi, readEvent .opbLo]
  | .out => [readEvent .outHi, readEvent .outLo]
  | .sk => [readEvent .skHi, readEvent .skLo]

/-- The word WRSEG and WRSEGP write: (s1 << 16) or (s2 << 8) or s3 (R102). -/
def tripleWord (s1 s2 s3 : BitVec 8) : Word := 0#8 ++ s1 ++ s2 ++ s3

/-- WAIT: the engine's turns, then the read of STATUS that ends the polling (R102; log 15). -/
def waitEvents (turns : Nat) : List Event := List.replicate turns .engine ++ [readEvent .status]

/-- ENCRYPT64 in the run where the command is accepted: nineteen engine steps pass in WAIT (R102; 70_reset_and_hazards.md
R330; log 15). -/
def encrypt64Events (pt k : Block) (s1 s2 s3 s1p s2p s3p : BitVec 8) : List Event :=
  write64Events .key k ++ write64Events .blk pt ++
    [writeEvent .seg (tripleWord s1 s2 s3), writeEvent .segp (tripleWord s1p s2p s3p), writeEvent .cmd (encode .encrypt)] ++
    waitEvents 19 ++ [readEvent .status] ++ read64Events .out

/-- The events of a statement (R101, R102). -/
def scriptEvents : ScriptStmt → List Event
  | .wr r v => [writeEvent r v]
  | .rd r => [readEvent r]
  | .cmd i => [writeEvent .cmd (encode i)]
  | .cmdw v => [writeEvent .cmd v]
  | .wr64 x v => write64Events x v
  | .rd64 x => read64Events x
  | .wrseg s1 s2 s3 => [writeEvent .seg (tripleWord s1 s2 s3)]
  | .wrsegp s1 s2 s3 => [writeEvent .segp (tripleWord s1 s2 s3)]
  | .wait turns => waitEvents turns
  | .encrypt64 pt k s1 s2 s3 s1p s2p s3p => encrypt64Events pt k s1 s2 s3 s1p s2p s3p

end Sys2Proof.Machine
end

