-- ==== Sys2Proof/Tests/Slice0.lean ====
section
/-! SUPPORT. Small tests against words and values printed in spec/, and for every statement with hypotheses a concrete
input that meets them all. -/

namespace Sys2Proof.Tests

set_option Elab.async false

open Sys2Proof Sys2Proof.Machine Sys2Proof.Safety Sys2Proof.Claims

/-! ### The smoke test of WellFormed: one ill-formed term for each check -/

theorem test_wf_getbit_position : ¬ WellFormed (.getbit 256 4) := by decide
theorem test_wf_getbit_width : ¬ WellFormed (.getbit 4 128) := by decide
theorem test_wf_setbit_position : ¬ WellFormed (.setbit 256 4 true) := by decide
theorem test_wf_setbit_width : ¬ WellFormed (.setbit 4 128 false) := by decide

/-! ### Decoding: the words of 95_test_vectors.md V15 and 30_encoding.md R92 -/

theorem test_decode_nop : decodeTableWord 32 0x00000000 = some .nop := by decide
theorem test_decode_encrypt : decodeTableWord 32 0x00000001 = some .encrypt := by decide
theorem test_decode_ksched : decodeTableWord 32 0x00000002 = some .ksched := by decide
theorem test_decode_clear : decodeTableWord 32 0x00000003 = some .clear := by decide
theorem test_decode_getbit : decode 0b0000000_0_0_1000000_00001000_00010000 = .ok (.getbit 8 64) := by decide
theorem test_decode_setbit : decode 0b0000000_1_0_0000100_00000010_00010001 = .ok (.setbit 2 4 true) := by decide
theorem test_decode_permute_ip : decode 0x00000012 = .ok .permuteIp := by decide
theorem test_decode_permute_fp : decode 0x00000112 = .ok .permuteFp := by decide
theorem test_decode_permute_pc1 : decode 0x00000212 = .ok .permutePc1 := by decide
theorem test_decode_permute_pc2 : decode 0x00000312 = .ok .permutePc2 := by decide
theorem test_decode_expand : decode 0x00000013 = .ok .expand := by decide
theorem test_decode_subst : decode 0x00000014 = .ok .subst := by decide
theorem test_decode_sperm : decode 0x00000015 = .ok .sperm := by decide
theorem test_decode_mix48_seg : decode 0x00000016 = .ok .mix48Seg := by decide
theorem test_decode_mix48_segp : decode 0x00000116 = .ok .mix48Segp := by decide
theorem test_decode_mix32_seg : decode 0x00000017 = .ok .mix32Seg := by decide
theorem test_decode_mix32_segp : decode 0x00000117 = .ok .mix32Segp := by decide

theorem test_decode_unassigned : decode 0x00000018 = .error .unassignedOpcode := by decide
theorem test_decode_bit_23 : decode 0x00800010 = .error .reservedBits := by decide
theorem test_decode_bit_25 : decode 0x03040211 = .error .reservedBits := by decide
theorem test_decode_getbit_with_v : decode 0x01000010 = .error .strayV := by decide
theorem test_decode_permute_with_width : decode 0x00010012 = .error .strayWd := by decide
theorem test_decode_encrypt_with_p : decode 0x00000101 = .error .strayP := by decide
theorem test_decode_permute_selector : decode 0x00000412 = .error .selectorRange := by decide
theorem test_decode_mix32_selector : decode 0x00000217 = .error .selectorRange := by decide

/-! ### One step at a time -/

/-- The engine about to perform the Exec step of the command word w on BLK and OPB, the triples at reset. -/
def running (w : Word) (blk opb : Block) : State :=
  { State.reset with phase := .exec, op := w, blk := blk, opb := opb }

/-- The host about to write w to CMD, with the triples given, nothing else changed since reset. -/
def writing (w : Word) (seg segp : BitVec 24) : State :=
  { State.reset with seg := seg, segp := segp, inputs := [.hostWrite 0x00 w] }

/-- What a step leaves in OUT, if it answers a next state. -/
def outAfter (s : State) : Option Block := match step s with
  | .next t => some t.out
  | .fault _ => none
  | .refused _ => none

/-- What STATUS reads after a step, if it answers a next state. -/
def statusAfter (s : State) : Option Word := match step s with
  | .next t => some (statusWord t)
  | .fault _ => none
  | .refused _ => none

/-! 95_test_vectors.md V15: STATUS right after the write, and after completion. -/

theorem test_nop_accepted : statusAfter (writing 0x00000000 0x101010 0x101010) = some 0x00000001 := by decide
theorem test_nop_completes : statusAfter (running 0x00000000 0 0) = some 0x00000002 := by decide
theorem test_ksched_accepted : statusAfter (writing 0x00000002 0x101010 0x101010) = some 0x00000001 := by decide
theorem test_clear_completes : statusAfter (running 0x00000003 0 0) = some 0x00000000 := by decide
theorem test_illegal_word : statusAfter (writing 0x80000001 0x101010 0x101010) = some 0x00000404 := by decide

/-! V17: the bit utilities. -/

theorem test_getbit : outAfter (running 0x00400810 0x0123456789ABCDEF 0) = some 1 := by decide +kernel
theorem test_getbit_rejected : statusAfter (writing 0x00404110 0x101010 0x101010) = some 0x00000504 := by decide
theorem test_setbit : outAfter (running 0x01040211 0xFFFFFFFFFFFFFFFA 0) = some 0xE := by decide +kernel
theorem test_setbit_rejected : statusAfter (writing 0x01000111 0x101010 0x101010) = some 0x00000504 := by decide

/-! V10 to V13: permutations, expansion, substitution. -/

theorem test_permute_ip : outAfter (running 0x00000012 0x0123456789ABCDEF 0) = some 0xCC00CCFFF0AAF0AA := by
  decide +kernel
theorem test_permute_fp : outAfter (running 0x00000112 0x0A4CD99543423234 0) = some 0x85E813540F0AB405 := by
  decide +kernel
theorem test_permute_pc1 : outAfter (running 0x00000212 0x133457799BBCDFF1 0) = some 0xF0CCAAF556678F00 := by
  decide +kernel
theorem test_permute_pc2 : outAfter (running 0x00000312 0xE19955FAACCF1EFF 0) = some 0x1B02EFFC70720000 := by
  decide +kernel
theorem test_expand : outAfter (running 0x00000013 0xFFFFFFFF80000000 0) = some 0x0000400000000001 := by decide +kernel
theorem test_subst : outAfter (running 0x00000014 0xFFFF6117BA866527 0) = some 0x5C82B597 := by decide +kernel
theorem test_sperm : outAfter (running 0x00000015 0x000000005C82B597 0) = some 0x234AA9BB := by decide +kernel

/-! V14 and V5: the mixing commands and the scaling rule. -/

theorem test_mix48_seg :
    outAfter (running 0x00000016 0xFFFF7A15557A1555 0x00001B02EFFC7072) = some 0x6117BA866527 := by decide +kernel
theorem test_mix48_seg_rejected : statusAfter (writing 0x00000016 0x10100F 0x101010) = some 0x00000104 := by decide
theorem test_mix48_segp :
    outAfter { running 0x00000116 0x7A15557A1555 0x1B02EFFC7072 with seg := 0x10100F, segp := 0x03032A } =
      some 0x6117BA866527 := by decide +kernel
theorem test_mix48_segp_rejected : statusAfter (writing 0x00000116 0x101010 0x101110) = some 0x00000204 := by decide
theorem test_mix32_seg : outAfter (running 0x00000017 0xFFFFFFFFCC00CCFF 0x12345678234AA9BB) = some 0xEF4A6544 := by
  decide +kernel
theorem test_mix32_seg_rejected : statusAfter (writing 0x00000017 0x300000 0x101010) = some 0x00000304 := by decide
theorem test_mix32_segp :
    outAfter { running 0x00000117 0xCC00CCFF 0x234AA9BB with seg := 0x300000, segp := 0x000030 } = some 0xEF4A6544 := by
  decide +kernel
theorem test_mix32_segp_rejected : statusAfter (writing 0x00000117 0x101010 0x0A0A0C) = some 0x00000204 := by decide

theorem test_scale_default : scale32 ⟨16, 16, 16⟩ = ⟨10, 10, 12⟩ := by decide
theorem test_scale_branch : scale32 ⟨45, 3, 0⟩ = ⟨30, 1, 1⟩ := by decide
theorem test_scale_empty_middle : scale32 ⟨47, 0, 1⟩ = ⟨31, 0, 1⟩ := by decide
theorem test_scale_single : scale32 ⟨48, 0, 0⟩ = ⟨32, -1, 1⟩ := by decide

/-! V8: the order of ENCRYPT's checks. -/

theorem test_encrypt_first_check : statusAfter (writing 0x00000001 0x10100F 0x101011) = some 0x00000104 := by decide
theorem test_encrypt_second_check : statusAfter (writing 0x00000001 0x300000 0x101011) = some 0x00000204 := by decide
theorem test_encrypt_third_check : statusAfter (writing 0x00000001 0x300000 0x101010) = some 0x00000304 := by decide
theorem test_encrypt_site_is_primary : statusAfter (writing 0x00000001 0x101010 0x300000) = some 0x00000001 := by
  decide

/-! V1: the key schedule's first and last subkey, round 0, and the reference vector. -/

theorem test_schedule_first : (keySchedule 0x133457799BBCDFF1)[0] = 0x1B02EFFC7072 := by decide +kernel
theorem test_schedule_last : (keySchedule 0x133457799BBCDFF1)[15] = 0xCB3D8B0E17F5 := by decide +kernel
theorem test_round_zero :
    feistelRound 0x1B02EFFC7072 ⟨16, 16, 16⟩ ⟨16, 16, 16⟩ (by decide) (by decide) ⟨0xCC00CCFF, 0xF0AAF0AA⟩ =
      ⟨0xF0AAF0AA, 0xEF4A6544⟩ := by decide +kernel
theorem test_reference_vector :
    encrypt 0x0123456789ABCDEF 0x133457799BBCDFF1 ⟨16, 16, 16⟩ ⟨16, 16, 16⟩ (by decide) (by decide) =
      0x85E813540F0AB405 := by decide +kernel

/-! V16: register accesses. -/

/-- The registers' values after one host access from reset, in one list. -/
def accessed (e : Event) : Option (List Response × BitVec 24 × BitVec 4 × Block) :=
  match step { State.reset with inputs := [e] } with
  | .next t => some (t.responses, t.seg, t.skidx, t.out)
  | .fault _ => none
  | .refused _ => none

theorem test_write_seg : accessed (.hostWrite 0x20 0xFF123456) = some ([.ok], 0x123456, 0, 0) := by decide
theorem test_write_skidx : accessed (.hostWrite 0x30 0x1F) = some ([.ok], 0x101010, 0xF, 0) := by decide
theorem test_write_read_only : accessed (.hostWrite 0x28 0xDEADBEEF) = some ([.ok], 0x101010, 0, 0) := by decide
theorem test_read_segp : accessed (.hostRead 0x24) = some ([.data 0x00101010], 0x101010, 0, 0) := by decide
theorem test_read_outside : accessed (.hostRead 0x3C) = some ([.error], 0x101010, 0, 0) := by decide
theorem test_write_misaligned : accessed (.hostWrite 0x09 0x11) = some ([.error], 0x101010, 0, 0) := by decide
theorem test_script_wrseg : scriptEvents (.wrseg 48 0 0) = [.hostWrite 0x20 0x00300000] := by decide

/-! ### For every statement with hypotheses, an input that meets them

The theorem witness_<Name> is about the statement Obligations.<Name>. Values stand at the ends of their ranges; a statement
with several clauses has one conjunct for each. -/

/-- Idle after reset, with one pending event. -/
def pending (e : Event) : State := { State.reset with inputs := [e] }

/-- Busy in a phase with the command word w latched. -/
def busyIn (p : Phase) (w : Word) : State := { State.reset with phase := p, op := w }

/-- Idle, about to write ENCRYPT and then to let the engine run to the end. -/
def encrypting (k : Block) : State :=
  { State.reset with key := k, inputs := .hostWrite 0x00 0x00000001 :: (List.replicate 19 .engine ++ [.hostRead 0x2C]) }

theorem witness_DecodeOfEncode : WellFormed (.setbit 255 127 true) ∧ WellFormed (.getbit 0 0) := by decide

theorem witness_EncodeOfDecode :
    decode 0x017FFF11 = .ok (.setbit 255 127 true) ∧ decode 0x00000000 = .ok .nop := by decide

theorem witness_DecodeFollowsTheRows :
    decode 0x00000312 = .ok .permutePc2 ∧ ⟨"PERMUTE.PC2", 0x00000312, 0xFFFFFFFF⟩ ∈ opcodeRows := by decide

theorem witness_RowsAreExclusive :
    ⟨"SETBIT", 0x00000011, 0xFE8000FF⟩ ∈ opcodeRows ∧
      OpcodeRow.selects ⟨"SETBIT", 0x00000011, 0xFE8000FF⟩ 0x017FFF11 = true := by decide

theorem witness_IllegalWordsAreRejected_illegal :
    listedIllegal (0xFFFFFFFF : Word).toNat ∧ atCommandWrite 0xFFFFFFFF [] (pending (.hostWrite 0x00 0xFFFFFFFF)) ∧
      listedIllegal (0x00000004 : Word).toNat ∧ listedIllegal (0x00000217 : Word).toNat :=
  ⟨by decide, by decide, by decide, by decide⟩

theorem witness_IllegalWordsAreRejected_legal :
    ¬ listedIllegal (0x017FFF11 : Word).toNat ∧ ¬ listedIllegal (0x00000117 : Word).toNat := by decide

theorem witness_StepRunsTheDecodedCommand_write :
    atCommandWrite 0x00000001 [] (pending (.hostWrite 0x00 0x00000001)) ∧ decode 0x00000001 = .ok .encrypt := by decide

theorem witness_StepRunsTheDecodedCommand_turn :
    (running 0x00000013 1 0).phase ≠ .idle ∧
      ({ running 0x00000013 1 0 with inputs := [.engine] } : State).inputs = .engine :: [] ∧
      (running 0x00000013 1 0).inputs = [] ∧ decode (running 0x00000013 1 0).op = .ok .expand := by decide

theorem witness_FetchWordRunsNext : decode 0x00000117 = .ok .mix32Segp := by decide

theorem witness_IdleEngineDoesNothing :
    (pending .engine).phase = .idle ∧ (pending .engine).inputs = .engine :: [] ∧ State.reset.phase = .idle ∧
      State.reset.inputs = [] := by decide

theorem witness_ResetFromAnyState :
    ({ busyIn .round 0x00000001 with l := 5, inputs := [.reset] } : State).inputs = .reset :: [] := by decide

theorem witness_InvalidAccessIsAnError :
    ¬ validOffset 0x3C ∧ (pending (.hostRead 0x3C)).inputs = .hostRead 0x3C :: [] ∧
      ¬ validOffset 0x37 ∧ (pending (.hostWrite 0x37 1)).inputs = .hostWrite 0x37 1 :: [] ∧
      validOffset 0x38 ∧ (pending (.hostRead 0x38)).inputs = .hostRead 0x38 :: [] := by decide

theorem witness_ReadsFollowTheMap :
    validOffset 0x00 ∧ (pending (.hostRead 0x00)).inputs = .hostRead 0x00 :: [] ∧
      validOffset 0x38 ∧ (pending (.hostRead 0x38)).inputs = .hostRead 0x38 :: [] ∧
      ¬ validOffset 0x39 ∧ (pending (.hostRead 0x39)).inputs = .hostRead 0x39 :: [] := by decide

theorem witness_WritesFollowTheDispatch_idle :
    (pending (.hostWrite 0x3C 7)).inputs = .hostWrite 0x3C 7 :: [] ∧ ¬ validOffset 0x3C ∧
      (pending (.hostWrite 0x04 7)).inputs = .hostWrite 0x04 7 :: [] ∧
      (pending (.hostWrite 0x00 3)).phase = .idle ∧ (pending (.hostWrite 0x00 3)).inputs = .hostWrite 0x00 3 :: [] ∧
      decode 3 = .ok .clear ∧ decode 4 = .error .unassignedOpcode ∧
      validOffset 0x08 ∧ (pending (.hostWrite 0x08 7)).inputs = .hostWrite 0x08 7 :: [] ∧
      validOffset 0x38 ∧ (pending (.hostWrite 0x38 7)).inputs = .hostWrite 0x38 7 :: [] := by decide

theorem witness_WritesFollowTheDispatch_busy :
    ({ running 0x00000000 0 0 with inputs := [.hostWrite 0x38 3] } : State).inputs = .hostWrite 0x38 3 :: [] ∧
      validOffset 0x38 ∧ (0x38 : Nat) ≠ 0x04 ∧
      ({ running 0x00000000 0 0 with inputs := [.hostWrite 0x38 3] } : State).phase ≠ .idle := by decide

theorem witness_BusyWritesAreDropped :
    validOffset 0x00 ∧ (0x00 : Nat) ≠ 0x04 ∧
      ({ running 0x00000000 0 0 with inputs := [.hostWrite 0x00 3] } : State).phase ≠ .idle ∧
      ({ running 0x00000000 0 0 with inputs := [.hostWrite 0x00 3] } : State).inputs = .hostWrite 0x00 3 :: [] ∧
      ({ running 0x00000000 0 0 with inputs := [.hostWrite 0x04 16] } : State).inputs = .hostWrite 0x04 16 :: [] := by
  decide

theorem witness_StatusWriteClearsBusyerr :
    ({ pending (.hostWrite 0x04 0x10) with busyErr := true } : State).inputs = .hostWrite 0x04 0x10 :: [] := by decide

/-- The host about to select subkey 15 and read it back. -/
def selecting : State :=
  { State.reset with inputs := [.hostWrite 0x30 15, .hostRead 0x34, .hostRead 0x38, .hostRead 0x30] }

theorem witness_SubkeyWindowShowsTheEntry :
    selecting.phase = .idle ∧
      selecting.inputs = .hostWrite 0x30 15 :: .hostRead 0x34 :: .hostRead 0x38 :: .hostRead 0x30 :: [] := by decide

/-- The words by which the statements about single commands reject: another field set beside the operation code. -/
theorem witness_otherwiseIllegal :
    (0x00000100 : Word).toNat % 256 = 0x00 ∧ (0x00000100 : Word) ∉ [(0x00000000 : Word)] ∧
      atCommandWrite 0x00000100 [] (pending (.hostWrite 0x00 0x00000100)) ∧
      (0x01000002 : Word).toNat % 256 = 0x02 ∧ (0x01000002 : Word) ∉ [(0x00000002 : Word)] ∧
      (0x00010003 : Word).toNat % 256 = 0x03 ∧ (0x00010003 : Word) ∉ [(0x00000003 : Word)] ∧
      (0x00000412 : Word).toNat % 256 = 0x12 ∧ (0x00000412 : Word) ∉ [0x12, 0x112, 0x212, (0x312 : Word)] ∧
      (0x00000113 : Word).toNat % 256 = 0x13 ∧ (0x00000113 : Word) ∉ [(0x00000013 : Word)] ∧
      (0x80000014 : Word).toNat % 256 = 0x14 ∧ (0x80000014 : Word) ∉ [(0x00000014 : Word)] ∧
      (0x01000015 : Word).toNat % 256 = 0x15 ∧ (0x01000015 : Word) ∉ [(0x00000015 : Word)] := by decide

theorem witness_KschedKeepsTheSchedule :
    State.reset.phase = .idle ∧ (busyIn .keySched 0x00000002).phase = .keySched ∧
      (busyIn .keySched 0x00000002).op = 0x00000002 := by decide

theorem witness_BitPositionsAreChecked :
    State.reset.phase = .idle ∧ bitInRange 1 1 ∧ bitInRange 64 64 ∧ bitInRange 1 64 ∧
      ¬ bitInRange 0 1 ∧ ¬ bitInRange 2 1 ∧ ¬ bitInRange 65 64 ∧ ¬ bitInRange 1 65 ∧ ¬ bitInRange 0 0 := by decide

theorem witness_MixTriplesAreChecked :
    State.reset.phase = .idle ∧ lengthSum 0x10100F ≠ 48 ∧ lengthSum 0x101011 ≠ 48 ∧
      isSingleSegment 0x300000 ∧ lengthSum 0x2F0100 = 48 ∧ ¬ isSingleSegment 0x2F0100 := by decide

theorem witness_EncryptChecksInOrder_word :
    (0x00000101 : Word).toNat % 256 = 1 ∧ atCommandWrite 0x00000101 [] (writing 0x00000101 0x101010 0x101010) ∧
      (0x00000101 : Word) ≠ 0x00000001 := by decide

theorem witness_EncryptChecksInOrder_triples :
    (0x00000001 : Word).toNat % 256 = 1 ∧ atCommandWrite 0x00000001 [] (writing 0x00000001 0x10100F 0x101010) ∧
      lengthSum (writing 0x00000001 0x10100F 0x101010).seg ≠ 48 ∧
      atCommandWrite 0x00000001 [] (writing 0x00000001 0x300000 0x101011) ∧
      lengthSum (writing 0x00000001 0x300000 0x101011).seg = 48 ∧
      lengthSum (writing 0x00000001 0x300000 0x101011).segp ≠ 48 ∧
      atCommandWrite 0x00000001 [] (writing 0x00000001 0x300000 0x300000) ∧
      lengthSum (writing 0x00000001 0x300000 0x300000).segp = 48 ∧
      isSingleSegment (writing 0x00000001 0x300000 0x300000).seg ∧
      atCommandWrite 0x00000001 [] (writing 0x00000001 0x2F0100 0x300000) ∧
      encryptAllowed (writing 0x00000001 0x2F0100 0x300000) := by decide

theorem witness_NopCompletes : State.reset.phase = .idle ∧ (running 0x00000000 0 0).phase = .exec := by decide
theorem witness_ClearGivesTheResetState : (running 0x00000003 1 2).phase = .exec := by decide

theorem witness_GetbitReadsTheBit :
    (0x00800010 : Word).toNat % 256 = 0x10 ∧ 8388608 ≤ (0x00800010 : Word).toNat ∧
      atCommandWrite 0x00800010 [] (pending (.hostWrite 0x00 0x00800010)) ∧ State.reset.phase = .idle ∧
      (running 0x00404010 1 0).phase = .exec ∧ bitInRange 64 64 ∧ bitInRange 1 1 := by decide
theorem witness_SetbitReplacesTheBit :
    (0x00800011 : Word).toNat % 256 = 0x11 ∧ (0x00800011 : Word).toNat / 8388608 % 2 = 1 ∧
      atCommandWrite 0x00800011 [] (pending (.hostWrite 0x00 0x00800011)) ∧
      (0x02000011 : Word).toNat % 256 = 0x11 ∧ 33554432 ≤ (0x02000011 : Word).toNat ∧ State.reset.phase = .idle ∧
      (running 0x01404011 1 0).phase = .exec ∧ bitInRange 64 64 ∧ bitInRange 1 1 := by decide

theorem witness_PermuteMovesTheBits : (running 0x00000012 1 0).phase = .exec := by decide
theorem witness_ExpandFansOut : (running 0x00000013 1 0).phase = .exec := by decide
theorem witness_SubstLooksUp : (running 0x00000014 1 0).phase = .exec := by decide
theorem witness_SpermMovesTheBits : (running 0x00000015 1 0).phase = .exec := by decide

theorem witness_MixFortyEightIsXor :
    ({ running 0x00000016 1 2 with seg := 0x300000, segp := 0x000030 } : State).phase = .exec ∧
      lengthSum ({ running 0x00000016 1 2 with seg := 0x300000, segp := 0x000030 } : State).seg = 48 ∧
      lengthSum ({ running 0x00000016 1 2 with seg := 0x300000, segp := 0x000030 } : State).segp = 48 := by decide

theorem witness_MixThirtyTwoIsXor :
    ({ running 0x00000017 1 2 with seg := 0x2F0001, segp := 0x003000 } : State).phase = .exec ∧
      lengthSum ({ running 0x00000017 1 2 with seg := 0x2F0001, segp := 0x003000 } : State).seg = 48 ∧
      ¬ isSingleSegment ({ running 0x00000017 1 2 with seg := 0x2F0001, segp := 0x003000 } : State).seg ∧
      lengthSum ({ running 0x00000017 1 2 with seg := 0x2F0001, segp := 0x003000 } : State).segp = 48 ∧
      ¬ isSingleSegment ({ running 0x00000017 1 2 with seg := 0x2F0001, segp := 0x003000 } : State).segp := by decide

theorem witness_KeySchedStepWritesTheFile :
    (busyIn .keySched 0x00000001).phase = .keySched ∧ (busyIn .keySched 0x00000001).op.toNat % 256 = 1 ∧
      (busyIn .keySched 0x00000002).phase = .keySched ∧ (busyIn .keySched 0x00000002).op.toNat % 256 = 2 := by decide

theorem witness_InitialStepSplitsTheBlock : (busyIn .initial 0x00000001).phase = .initial := by decide

theorem witness_RoundStepIsTheFeistelRound :
    ({ busyIn .round 0x00000001 with rIdx := 15, seg := 0x2F0100 } : State).phase = .round ∧
      encryptAllowed { busyIn .round 0x00000001 with rIdx := 15, seg := 0x2F0100 } ∧
      (busyIn .round 0x00000001).phase = .round ∧ encryptAllowed (busyIn .round 0x00000001) := by decide

theorem witness_FinalSwapStepDelivers :
    (busyIn .finalSwap 0x00000001).phase = .finalSwap ∧ (busyIn .initial 0x00000001).phase ≠ .finalSwap ∧
      ∃ t, exec .encrypt (busyIn .initial 0x00000001) = .next t := ⟨by decide, by decide, _, rfl⟩

theorem witness_ParityBitsAreUnused :
    ∀ p : Nat, 1 ≤ p → p ≤ 64 → p % 8 ≠ 0 → sourceBit (0 : Block) p = sourceBit (0x0101010101010101 : Block) p := by
  have h : ∀ p < 65, 1 ≤ p → p % 8 ≠ 0 → sourceBit (0 : Block) p = sourceBit (0x0101010101010101 : Block) p := by
    decide +kernel
  exact fun p h1 h2 h3 => h p (Nat.lt_succ_of_le h2) h1 h3

theorem witness_SetBitThenGetBit : inWord 4 1 ∧ inWord 4 4 ∧ (4 : Nat) ≠ 1 := by decide

theorem witness_SegmentedMixIsXor :
    isPartition 48 ⟨48, 0, 0⟩ ∧ isPartition 48 ⟨0, 0, 48⟩ ∧ isPartition 32 ⟨31, 0, 1⟩ ∧ isPartition 0 ⟨0, 0, 0⟩ := by
  decide

theorem witness_ScaledTripleGuarantees :
    valid48 ⟨48, 0, 0⟩ ∧ valid48 ⟨47, 1, 0⟩ ∧ valid48 ⟨46, 2, 0⟩ ∧ (46 : Int) < 47 ∧ valid48 ⟨0, 0, 48⟩ := by decide

theorem witness_CipherIsThePlainNetwork : valid48 ⟨48, 0, 0⟩ ∧ mix32Domain ⟨47, 1, 0⟩ := by decide
theorem witness_CipherComplements : valid48 ⟨0, 48, 0⟩ ∧ mix32Domain ⟨0, 0, 48⟩ := by decide

theorem witness_EncryptTakesNineteenSteps :
    (encrypting 7).phase = .idle ∧ encryptAllowed (encrypting 7) ∧
      (encrypting 7).inputs = .hostWrite 0x00 0x00000001 :: (List.replicate 19 .engine ++ [.hostRead 0x2C]) := by decide

theorem witness_EncryptVisitsItsPhases :
    (encrypting 7).phase = .idle ∧ encryptAllowed (encrypting 7) ∧
      (encrypting 7).inputs = .hostWrite 0x00 0x00000001 :: (List.replicate 19 .engine ++ [.hostRead 0x2C]) ∧
      (encrypting 7).inputs =
        .hostWrite 0x00 0x00000001 :: (List.replicate 0 .engine ++ (List.replicate 19 .engine ++ [.hostRead 0x2C])) := by
  decide

theorem witness_EveryCommandFinishes_dropped :
    ({ running 0x00000000 0 0 with inputs := [.hostWrite 0x00 3] } : State).phase ≠ .idle ∧
      ({ running 0x00000000 0 0 with inputs := [.hostWrite 0x00 3] } : State).inputs = .hostWrite 0x00 3 :: [] := by
  decide

theorem witness_EveryCommandFinishes_rejected :
    WellFormed (.getbit 65 64) ∧ (pending (.hostWrite 0x00 (encode (.getbit 65 64)))).phase = .idle ∧
      ({ State.reset with inputs := [.hostWrite 0x00 (encode (.getbit 65 64)), .engine] } : State).inputs =
        .hostWrite 0x00 (encode (.getbit 65 64)) ::
          (List.replicate (engineSteps (.getbit 65 64)) .engine ++ []) ∧
      verdict (.getbit 65 64) State.reset = some .badBitpos := by decide

theorem witness_EveryCommandFinishes_accepted :
    WellFormed .encrypt ∧ (encrypting 7).phase = .idle ∧
      (encrypting 7).inputs =
        .hostWrite 0x00 (encode .encrypt) :: (List.replicate (engineSteps .encrypt) .engine ++ [.hostRead 0x2C]) ∧
      verdict .encrypt (encrypting 7) = none := by decide

/-- Host accesses between the engine's steps: a dropped write to KEY after the fifth, a read of STATUS at the end. -/
def interleaved : List Event :=
  List.replicate 5 .engine ++ [.hostWrite 0x08 1] ++ List.replicate 13 .engine ++ [.hostRead 0x04]

theorem witness_EncryptUnderEveryInterleaving :
    ({ State.reset with inputs := .hostWrite 0x00 0x00000001 :: (interleaved ++ .engine :: []) } : State).phase = .idle ∧
      encryptAllowed { State.reset with inputs := .hostWrite 0x00 0x00000001 :: (interleaved ++ .engine :: []) } ∧
      (∀ e ∈ interleaved, e ≠ .reset) ∧ interleaved.count .engine = 18 := by decide

theorem witness_EncryptIgnoresEarlierState :
    (encrypting 7).phase = .idle ∧ ({ encrypting 7 with out := 3, l := 9, skidx := 2 } : State).phase = .idle ∧
      encryptAllowed (encrypting 7) ∧
      (encrypting 7).key = ({ encrypting 7 with out := 3, l := 9, skidx := 2 } : State).key ∧
      (encrypting 7).inputs = .hostWrite 0x00 0x00000001 :: (List.replicate 19 .engine ++ [.hostRead 0x2C]) := by decide

/-- The engine before round 0 of an ENCRYPT of the zero block under the zero key. -/
def beforeRoundZero : State :=
  { busyIn .round 0x00000001 with
    sk := keySchedule 0, l := (initialHalves 0).l, r := (initialHalves 0).r }

/-- beforeRoundZero meets the invariant: a state in the middle of a command. -/
theorem beforeRoundZero_invariant : EngineInvariant beforeRoundZero where
  notBoth := by decide
  errHasCode := by decide
  busyFlags := fun _ => by decide
  latched := fun _ => ⟨.encrypt, by decide, by decide, rfl⟩
  roundZero := fun _ => rfl
  roundLast := fun h => by cases h
  halvesZero := fun h => absurd (Or.inl rfl) h
  windowValid := fun h => by cases h
  windowZero := fun _ h => by rcases h with h | h <;> cases h
  scheduleOfKey := fun _ => rfl
  halvesFollow := fun _ hs hm => by
    rw [show roundsDone beforeRoundZero = 0 from rfl, List.take_zero]
    have eta : ∀ x : Halves, (⟨x.l, x.r⟩ : Halves) = x := fun _ => rfl
    exact eta (initialHalves 0)

theorem witness_EveryStepKeepsTheInvariant : ∃ t, EngineInvariant beforeRoundZero ∧ step beforeRoundZero = .next t :=
  ⟨_, beforeRoundZero_invariant, rfl⟩

theorem witness_NoStepStops : EngineInvariant beforeRoundZero := beforeRoundZero_invariant

theorem witness_OutChangesOnlyAtTheEnd_exec :
    ∃ t, step (running 0x00404010 1 0) = .next t ∧ t.out ≠ (running 0x00404010 1 0).out :=
  ⟨_, rfl, by decide +kernel⟩

theorem witness_OutChangesOnlyAtTheEnd_finalSwap :
    ∃ t, step { busyIn .finalSwap 0x00000001 with l := 1 } = .next t ∧
      t.out ≠ ({ busyIn .finalSwap 0x00000001 with l := 1 } : State).out :=
  ⟨_, rfl, by decide +kernel⟩

theorem witness_OutChangesOnlyAtTheEnd_reset :
    ∃ t, step { pending .reset with out := 1 } = .next t ∧ t.out ≠ ({ pending .reset with out := 1 } : State).out :=
  ⟨_, rfl, by decide⟩

theorem witness_OperandsAreStableWhileBusy :
    (∃ t, step (running 0x00000000 1 2) = .next t) ∧ (running 0x00000000 1 2).phase ≠ .idle ∧
      (∀ rest, (running 0x00000000 1 2).inputs ≠ .reset :: rest) ∧
      ¬ ((running 0x00000000 1 2).phase = .exec ∧ decode (running 0x00000000 1 2).op = .ok .clear) := by
  refine ⟨⟨_, rfl⟩, by decide, ?_, by decide⟩
  intro rest h
  cases h


theorem witness_ErrorsAriseOnlyAtCommandWrites :
    ∃ t, step (writing 0x00000004 0x101010 0x101010) = .next t ∧
      (writing 0x00000004 0x101010 0x101010).err = false ∧ t.err = true :=
  ⟨_, rfl, by decide, by decide⟩

theorem witness_PhasesIgnoreTheData :
    (∃ t t', step (running 0x00000013 1 2) = .next t ∧ step (running 0x00000013 8 9) = .next t') ∧
      (running 0x00000013 1 2).phase ≠ .idle ∧ (running 0x00000013 8 9).phase = (running 0x00000013 1 2).phase ∧
      (running 0x00000013 8 9).rIdx = (running 0x00000013 1 2).rIdx ∧
      (running 0x00000013 8 9).op = (running 0x00000013 1 2).op ∧ (running 0x00000013 1 2).inputs = [] ∧
      (running 0x00000013 8 9).inputs = [] :=
  ⟨⟨_, _, rfl, rfl⟩, by decide, by decide, by decide, by decide, by decide, by decide⟩

end Sys2Proof.Tests
end

section
/-! The two statements on the engine's elements (spec/10_state.md): their values after reset (R43) and the window onto the
subkey file (R37). The laws of a run, of a host read and of a data write come first. -/

namespace Sys2Proof.Machine

open Sys2Proof.Claims (answered)

/-! ### A run, one step at a time -/

theorem run_zero (s : State) : Host.Core.run core 0 s = .next s := rfl

/-- A run goes on from the state its first step answers. -/
theorem run_succ_of_step {s t : State} (h : step s = .next t) (k : Nat) :
    Host.Core.run core (k + 1) s = Host.Core.run core k t := by
  have hcore : core.step s = .next t := h
  simp only [Host.Core.run, hcore]

/-! ### A host access that is answered -/

@[simp] theorem answered_inputs (a : Response) (rest : List Event) (s : State) : (answered a rest s).inputs = rest := rfl

@[simp] theorem answered_phase (a : Response) (rest : List Event) (s : State) : (answered a rest s).phase = s.phase := rfl

/-- What a register reads as does not depend on the pending events and on the past answers. -/
@[simp] theorem readReg_answered (r : HostReg) (a : Response) (rest : List Event) (s : State) :
    readReg r (answered a rest s) = readReg r s := by
  cases r <;> rfl

/-- The read of a register is answered with its value and changes nothing (46_control_and_host_access.md R263). -/
theorem step_hostRead {s : State} {rest : List Event} (r : HostReg) (h : s.inputs = .hostRead (regOffset r) :: rest) :
    step s = .next (answered (.data (readReg r s)) rest s) := by
  have hread : regRead (regOffset r) { s with inputs := rest } =
      respond (.data (readReg r { s with inputs := rest })) { s with inputs := rest } := by
    simp only [regRead, regAt_regOffset]
  have hvalue : readReg r { s with inputs := rest } = readReg r s := by
    cases r <;> rfl
  rw [step, nextEvent_cons h, takeEvent, hread, hvalue]
  rfl

@[simp] theorem writeData_inputs (r : HostReg) (v : Word) (s : State) : (writeData r v s).inputs = s.inputs := by
  cases r <;> rfl

/-- A write to a register other than CMD and STATUS while idle is acknowledged and honoured
(46_control_and_host_access.md R262). -/
theorem step_hostWrite_data {s : State} {v : Word} {rest : List Event} {r : HostReg} (hidle : s.phase = .idle)
    (hstatus : r ≠ .status) (hcmd : r ≠ .cmd) (h : s.inputs = .hostWrite (regOffset r) v :: rest) :
    step s = .next (writeData r v (answered .ok rest s)) := by
  have hwrite : regWrite (regOffset r) v { s with inputs := rest } = regWriteValid r v (answered .ok rest s) := by
    simp only [regWrite, regAt_regOffset]
    rfl
  have hnotBusy : busy (answered .ok rest s) = false := by
    simp [busy, hidle]
  rw [step, nextEvent_cons h, takeEvent, hwrite, regWriteValid, if_neg hstatus, hnotBusy, if_neg Bool.false_ne_true,
    if_neg hcmd]

/-! ### The subkey window (10_state.md R37) -/

/-- SK_HI and SK_LO together are the selected subkey while SKVALID = 1, and 0 otherwise. -/
theorem readReg_skHi_skLo_toNat (s : State) :
    (readReg .skHi s).toNat * 2 ^ 32 + (readReg .skLo s).toNat =
      if s.skValid then (windowSubkey s).toNat else 0 := by
  have hlt : (windowSubkey s).toNat < 2 ^ 48 := (windowSubkey s).isLt
  by_cases hvalid : s.skValid = true
  · simp only [readReg, hvalid, if_true, BitVec.toNat_setWidth, BitVec.extractLsb'_toNat, Nat.shiftRight_eq_div_pow]
    omega
  · simp [readReg, hvalid]

/-- A write to SKIDX stores bits [3:0] of the value. -/
theorem writeData_skidx (v : Word) (s : State) :
    writeData .skidx v s = { s with skidx := BitVec.ofNat 4 v.toNat } := by
  have hbits : v.extractLsb' 0 4 = BitVec.ofNat 4 v.toNat := by
    apply BitVec.eq_of_toNat_eq
    simp [BitVec.extractLsb'_toNat]
  rw [writeData, hbits]

/-- SKIDX reads back zero-extended. -/
theorem readReg_skidx_after_write (v : Word) (s : State) :
    readReg .skidx (writeData .skidx v s) = BitVec.ofNat 32 (v.toNat % 16) := by
  rw [writeData_skidx]
  apply BitVec.eq_of_toNat_eq
  simp [readReg]

/-- After a write to SKIDX the window is onto the subkey that bits [3:0] of the value select. -/
theorem windowSubkey_after_write (v : Word) (s : State) :
    windowSubkey (writeData .skidx v s) = s.sk[v.toNat % 16]'(Nat.mod_lt _ (by decide)) := by
  simp [windowSubkey, writeData_skidx]

/-- The host writes SKIDX while idle and reads the window and SKIDX: the four answers, the latest first, and the frame. -/
theorem run_select_and_read {s : State} {v : Word} {rest : List Event} (hidle : s.phase = .idle)
    (h : s.inputs = .hostWrite (regOffset .skidx) v :: .hostRead (regOffset .skHi) :: .hostRead (regOffset .skLo) ::
      .hostRead (regOffset .skidx) :: rest) :
    Host.Core.run core 4 s = .next { writeData .skidx v s with
      inputs := rest
      responses := .data (readReg .skidx (writeData .skidx v s)) :: .data (readReg .skLo (writeData .skidx v s)) ::
        .data (readReg .skHi (writeData .skidx v s)) :: .ok :: s.responses } := by
  rw [run_succ_of_step (step_hostWrite_data hidle (by decide) (by decide) h),
    run_succ_of_step (step_hostRead .skHi (writeData_inputs ..)),
    run_succ_of_step (step_hostRead .skLo (answered_inputs ..)),
    run_succ_of_step (step_hostRead .skidx (answered_inputs ..)), run_zero]
  rfl

/-! ### The values after reset (10_state.md R43) -/

theorem reset_sk (i : Fin 16) : State.reset.sk[i] = 0 := by
  simp [State.reset]

/-- The flags, and BUSY with them, are 0 after reset. -/
theorem readReg_status_reset : readReg .status State.reset = 0 := by
  decide

/-- Settles O17: the run of the four accesses, and what the window and SKIDX read as once SKIDX is written. -/
theorem subkeyWindowShowsTheEntry : Obligations.SubkeyWindowShowsTheEntry := by
  refine ⟨rfl, fun s v rest hidle hinputs => ?_⟩
  refine ⟨readReg .skHi (writeData .skidx v s), readReg .skLo (writeData .skidx v s), ?_, ?_⟩
  · rw [run_select_and_read hidle hinputs, readReg_skidx_after_write, writeData_skidx]
  · rw [readReg_skHi_skLo_toNat, windowSubkey_after_write, writeData_skidx]

/-- Settles O10, element by element. -/
theorem resetValues : Obligations.ResetValues :=
  ⟨rfl, rfl, rfl, rfl, rfl, rfl, reset_sk, rfl, rfl, rfl, rfl, readReg_status_reset, rfl, rfl, rfl⟩

end Sys2Proof.Machine
end

section
/-! The statements on invalid accesses and on writes while busy (spec/20_memory.md R66, R71). The offsets of the register map
come first, then what a step does with an invalid access and with a valid write. -/

namespace Sys2Proof.Machine

open Sys2Proof.Claims (answered validOffset)

/-! ### The offsets of the register map -/

/-- The register map has no register at exactly the invalid offsets (20_memory.md R66). -/
theorem regAt_eq_none_iff_not_validOffset {off : Nat} : regAt off = none ↔ ¬ validOffset off := by
  rw [regAt_eq_none]
  omega

/-- Every valid offset is the offset of a register. -/
theorem exists_regOffset_of_validOffset {off : Nat} (hvalid : validOffset off) : ∃ r, off = regOffset r := by
  cases hreg : regAt off with
  | none => exact absurd hvalid (regAt_eq_none_iff_not_validOffset.mp hreg)
  | some r => exact ⟨r, regOffset_of_regAt hreg⟩

/-! ### An invalid access -/

/-- A read at an invalid offset is answered ERROR and changes nothing. -/
theorem step_hostRead_invalid {s : State} {off : Nat} {rest : List Event} (hinvalid : ¬ validOffset off)
    (h : s.inputs = .hostRead off :: rest) : step s = .next (answered .error rest s) := by
  have hread : regRead off { s with inputs := rest } = answered .error rest s := by
    simp only [regRead, regAt_eq_none_iff_not_validOffset.mpr hinvalid]
    rfl
  rw [step, nextEvent_cons h, takeEvent, hread]

/-- A write at an invalid offset is answered ERROR and changes nothing. -/
theorem step_hostWrite_invalid {s : State} {off : Nat} {v : Word} {rest : List Event} (hinvalid : ¬ validOffset off)
    (h : s.inputs = .hostWrite off v :: rest) : step s = .next (answered .error rest s) := by
  have hwrite : regWrite off v { s with inputs := rest } = .next (answered .error rest s) := by
    simp only [regWrite, regAt_eq_none_iff_not_validOffset.mpr hinvalid]
    rfl
  rw [step, nextEvent_cons h, takeEvent, hwrite]

/-! ### A valid write -/

/-- The write of a register is answered OK and goes through the dispatch of 46_control_and_host_access.md R262. -/
theorem step_hostWrite {s : State} {v : Word} {rest : List Event} (r : HostReg)
    (h : s.inputs = .hostWrite (regOffset r) v :: rest) : step s = regWriteValid r v (answered .ok rest s) := by
  have hwrite : regWrite (regOffset r) v { s with inputs := rest } = regWriteValid r v (answered .ok rest s) := by
    simp only [regWrite, regAt_regOffset]
    rfl
  rw [step, nextEvent_cons h, takeEvent, hwrite]

/-- A write to STATUS keeps BUSYERR unless bit 4 of the value is 1 (10_state.md R36). -/
theorem writeStatus_eq (v : Word) (s : State) :
    writeStatus v s = { s with busyErr := s.busyErr && !v.getLsbD 4 } := by
  unfold writeStatus
  cases v.getLsbD 4 <;> simp

/-- A write to STATUS is honoured busy or idle. -/
theorem step_hostWrite_status {s : State} {v : Word} {rest : List Event}
    (h : s.inputs = .hostWrite (regOffset .status) v :: rest) :
    step s = .next (writeStatus v (answered .ok rest s)) := by
  rw [step_hostWrite .status h, regWriteValid, if_pos rfl]

/-- A write to any other register while busy is dropped and noted. -/
theorem step_hostWrite_busy {s : State} {v : Word} {rest : List Event} {r : HostReg} (hbusy : s.phase ≠ .idle)
    (hstatus : r ≠ .status) (h : s.inputs = .hostWrite (regOffset r) v :: rest) :
    step s = .next (noteDropped (answered .ok rest s)) := by
  have hbusy' : busy (answered .ok rest s) = true := by
    simp [busy, hbusy]
  rw [step_hostWrite r h, regWriteValid, if_neg hstatus, if_pos hbusy']

/-! ### The statements -/

/-- Settles O12: an invalid offset has no register, and a valid one is a register's, whose value the read is answered with. -/
theorem invalidAccessIsAnError : Obligations.InvalidAccessIsAnError := by
  refine fun s off v rest => ⟨step_hostRead_invalid, step_hostWrite_invalid, fun hvalid hinputs => ?_⟩
  obtain ⟨r, rfl⟩ := exists_regOffset_of_validOffset hvalid
  exact ⟨readReg r s, step_hostRead r hinputs⟩

/-- Settles O15: a valid offset other than 0x04 is a register's other than STATUS, whose write is dropped while busy; 0x04 is
the offset of STATUS. -/
theorem busyWritesAreDropped : Obligations.BusyWritesAreDropped := by
  refine fun s off v rest hinputs => ⟨fun hvalid hoff hbusy => ?_, fun hoff => ?_⟩
  · obtain ⟨r, rfl⟩ := exists_regOffset_of_validOffset hvalid
    have hstatus : r ≠ .status := fun hr => hoff (congrArg regOffset hr)
    exact step_hostWrite_busy hbusy hstatus hinputs
  · subst hoff
    rw [step_hostWrite_status hinputs, writeStatus_eq]
    rfl

end Sys2Proof.Machine
end

section
/-! The illegal words (spec/30_encoding.md R94, spec/60_exceptions.md R283). A word with reserved bits 0 is put together from
its fields, so what decodes is the word of its command and selects a row of R92; what selects a row is not listed; what is
not listed decodes. So the listed words, the words that no row selects and the words that do not decode are the same words. -/

namespace Sys2Proof.Machine

open Sys2Proof.Claims (answered rejectedWith listedIllegal atCommandWrite)

/-! ### The fields of a word as numbers (30_encoding.md R90) -/

theorem fieldOpc_toNat (w : Word) : (fieldOpc w).toNat = w.toNat % 256 := by
  simp [fieldOpc]

theorem fieldP_toNat (w : Word) : (fieldP w).toNat = w.toNat / 256 % 256 := by
  simp [fieldP, BitVec.extractLsb'_toNat, Nat.shiftRight_eq_div_pow]

theorem fieldWd_toNat (w : Word) : (fieldWd w).toNat = w.toNat / 65536 % 128 := by
  simp [fieldWd, BitVec.extractLsb'_toNat, Nat.shiftRight_eq_div_pow]

theorem fieldReserved23_toNat (w : Word) : (fieldReserved23 w).toNat = w.toNat / 8388608 % 2 := by
  simp [fieldReserved23, BitVec.extractLsb'_toNat, Nat.shiftRight_eq_div_pow]

theorem fieldV_toNat (w : Word) : (fieldV w).toNat = w.toNat / 16777216 % 2 := by
  simp [fieldV, BitVec.extractLsb'_toNat, Nat.shiftRight_eq_div_pow]

theorem fieldReservedTop_toNat (w : Word) : (fieldReservedTop w).toNat = w.toNat / 33554432 := by
  simp only [fieldReservedTop, BitVec.extractLsb'_toNat, Nat.shiftRight_eq_div_pow]
  omega

theorem fieldV_eq_one_iff {w : Word} : fieldV w = 1 ↔ w.getLsbD 24 = true := by
  rw [show w.getLsbD 24 = (fieldV w).getLsbD 0 by simp [fieldV]]
  generalize fieldV w = v
  revert v
  decide

theorem fieldV_eq_zero_of_ne_one {w : Word} (h : fieldV w ≠ 1) : fieldV w = 0 := by
  revert h
  generalize fieldV w = v
  revert v
  decide

/-- A word whose reserved bits are 0 is put together from its four fields. -/
theorem commandWord_fields {w : Word} (h23 : fieldReserved23 w = 0) (htop : fieldReservedTop w = 0) :
    commandWord (fieldOpc w) (fieldP w) (fieldWd w) (fieldV w = 1) = w := by
  have hbit23 : w.getLsbD 23 = false := by
    simpa [fieldReserved23] using congrArg (·.getLsbD 0) h23
  have hbitTop (i : Nat) (hlow : 25 ≤ i) (hi : i < 32) : w.getLsbD i = false := by
    have hbit := congrArg (·.getLsbD (i - 25)) htop
    simpa [fieldReservedTop, show i - 25 < 7 by omega, show 25 + (i - 25) = i by omega] using hbit
  have hbitV : decide (fieldV w = 1) = w.getLsbD 24 := by
    simp only [fieldV_eq_one_iff, Bool.decide_eq_true]
  apply BitVec.eq_of_getLsbD_eq
  intro i hi
  rw [getLsbD_commandWord, hbitV]
  split_ifs with hopc hp hwd hv
  · simp [fieldOpc, hopc]
  · simp [fieldP, show i - 8 < 8 by omega, show 8 + (i - 8) = i by omega]
  · simp [fieldWd, show i - 16 < 7 by omega, show 16 + (i - 16) = i by omega]
  · rw [hv]
  · obtain rfl | hlow : i = 23 ∨ 25 ≤ i := by omega
    · exact hbit23.symm
    · exact (hbitTop i hlow hi).symm

/-! ### The decoder -/

/-- What a word of a command without arguments decodes to. -/
theorem decodePlain_eq_ok {w : Word} {i j : Instr} :
    decodePlain w i = .ok j ↔ fieldV w = 0 ∧ fieldWd w = 0 ∧ fieldP w = 0 ∧ i = j := by
  unfold decodePlain
  split_ifs <;> simp_all

/-- What a word of a command with a selector decodes to. -/
theorem decodeSelector_eq_ok {w : Word} {choices : List Instr} {j : Instr} :
    decodeSelector w choices = .ok j ↔ fieldV w = 0 ∧ fieldWd w = 0 ∧ choices[(fieldP w).toNat]? = some j := by
  unfold decodeSelector
  split_ifs with hv hwd
  · simp_all
  · simp_all
  · split <;> simp_all

/-- A word whose selector is a position of the list decodes. -/
theorem exists_decodeSelector_eq_ok {w : Word} {choices : List Instr} (hv : fieldV w = 0) (hwd : fieldWd w = 0)
    (hp : (fieldP w).toNat < choices.length) : ∃ i, decodeSelector w choices = .ok i :=
  ⟨choices[(fieldP w).toNat], decodeSelector_eq_ok.mpr ⟨hv, hwd, List.getElem?_eq_getElem hp⟩⟩

theorem wellFormed_getbit (p : BitVec 8) (wd : BitVec 7) : WellFormed (.getbit p.toNat wd.toNat) := by
  simp [WellFormed, Instr.wf, p.isLt, wd.isLt]

theorem wellFormed_setbit (p : BitVec 8) (wd : BitVec 7) (v : Bool) : WellFormed (.setbit p.toNat wd.toNat v) :=
  wellFormed_getbit p wd

/-- A word that decodes has its reserved bits 0. -/
theorem reserved_eq_zero_of_decode {w : Word} {i : Instr} (h : decode w = .ok i) :
    fieldReserved23 w = 0 ∧ fieldReservedTop w = 0 := by
  by_contra hreserved
  have : decode w = .error .reservedBits := if_pos (by tauto)
  rw [this] at h
  cases h

section
variable {w : Word} {opc : BitVec 8} {i : Instr}

/-- A word that decodePlain reads as i is the word of i. -/
theorem encode_of_decodePlain {j : Instr} (hw : commandWord opc (fieldP w) (fieldWd w) (fieldV w = 1) = w)
    (hj : WellFormed j ∧ encode j = commandWord opc 0 0 false) (h : decodePlain w j = .ok i) :
    WellFormed i ∧ encode i = w := by
  obtain ⟨hv, hwd, hp, rfl⟩ := decodePlain_eq_ok.mp h
  refine ⟨hj.1, hj.2.trans ?_⟩
  simpa [hv, hwd, hp] using hw

/-- A word that decodeSelector reads as i is the word of i, when the list's positions are its commands' selectors. -/
theorem encode_of_decodeSelector {choices : List Instr}
    (hw : commandWord opc (fieldP w) (fieldWd w) (fieldV w = 1) = w)
    (hchoices : ∀ (k : Nat) (hk : k < choices.length),
      WellFormed choices[k] ∧ encode choices[k] = commandWord opc (BitVec.ofNat 8 k) 0 false)
    (h : decodeSelector w choices = .ok i) : WellFormed i ∧ encode i = w := by
  obtain ⟨hv, hwd, hp⟩ := decodeSelector_eq_ok.mp h
  obtain ⟨hk, rfl⟩ := List.getElem?_eq_some_iff.mp hp
  obtain ⟨hwf, hencode⟩ := hchoices _ hk
  refine ⟨hwf, hencode.trans ?_⟩
  simpa [hv, hwd] using hw

end

/-- A word that decodes is the word of its command (30_encoding.md R92). -/
theorem encode_of_decode {w : Word} {i : Instr} (h : decode w = .ok i) : WellFormed i ∧ encode i = w := by
  obtain ⟨h23, htop⟩ := reserved_eq_zero_of_decode h
  have hword (opc : BitVec 8) (hopc : (fieldOpc w).toNat = opc.toNat) :
      commandWord opc (fieldP w) (fieldWd w) (fieldV w = 1) = w := by
    rw [← BitVec.eq_of_toNat_eq hopc]
    exact commandWord_fields h23 htop
  simp only [decode, h23, htop, ne_eq, not_true_eq_false, or_self, if_false] at h
  split at h
  case h_1 hopc => exact encode_of_decodePlain (hword 0x00 hopc) ⟨rfl, rfl⟩ h
  case h_2 hopc => exact encode_of_decodePlain (hword 0x01 hopc) ⟨rfl, rfl⟩ h
  case h_3 hopc => exact encode_of_decodePlain (hword 0x02 hopc) ⟨rfl, rfl⟩ h
  case h_4 hopc => exact encode_of_decodePlain (hword 0x03 hopc) ⟨rfl, rfl⟩ h
  case h_5 hopc =>
    split_ifs at h with hv
    cases h
    refine ⟨wellFormed_getbit _ _, ?_⟩
    simpa [encode, hv] using hword 0x10 hopc
  case h_6 hopc =>
    cases h
    refine ⟨wellFormed_setbit _ _ _, ?_⟩
    simpa [encode] using hword 0x11 hopc
  case h_7 hopc => exact encode_of_decodeSelector (hword 0x12 hopc) (by decide) h
  case h_8 hopc => exact encode_of_decodePlain (hword 0x13 hopc) ⟨rfl, rfl⟩ h
  case h_9 hopc => exact encode_of_decodePlain (hword 0x14 hopc) ⟨rfl, rfl⟩ h
  case h_10 hopc => exact encode_of_decodePlain (hword 0x15 hopc) ⟨rfl, rfl⟩ h
  case h_11 hopc => exact encode_of_decodeSelector (hword 0x16 hopc) (by decide) h
  case h_12 hopc => exact encode_of_decodeSelector (hword 0x17 hopc) (by decide) h
  case h_13 => cases h

/-! ### The rows (30_encoding.md R92) -/

/-- The word of every well-formed command selects a row with the command's mnemonic. -/
theorem encodesItsRow (i : Instr) : Laws.EncodesItsRow.Statement i :=
  match i with
  | .nop => Laws.EncodesItsRow.nop
  | .encrypt => Laws.EncodesItsRow.encrypt
  | .ksched => Laws.EncodesItsRow.ksched
  | .clear => Laws.EncodesItsRow.clear
  | .getbit p wd => Laws.EncodesItsRow.getbit p wd
  | .setbit p wd v => Laws.EncodesItsRow.setbit p wd v
  | .permuteIp => Laws.EncodesItsRow.permuteIp
  | .permuteFp => Laws.EncodesItsRow.permuteFp
  | .permutePc1 => Laws.EncodesItsRow.permutePc1
  | .permutePc2 => Laws.EncodesItsRow.permutePc2
  | .expand => Laws.EncodesItsRow.expand
  | .subst => Laws.EncodesItsRow.subst
  | .sperm => Laws.EncodesItsRow.sperm
  | .mix48Seg => Laws.EncodesItsRow.mix48Seg
  | .mix48Segp => Laws.EncodesItsRow.mix48Segp
  | .mix32Seg => Laws.EncodesItsRow.mix32Seg
  | .mix32Segp => Laws.EncodesItsRow.mix32Segp

/-- A word that decodes selects the row of its command. -/
theorem exists_selects_of_decode {w : Word} {i : Instr} (h : decode w = .ok i) :
    ∃ row ∈ opcodeRows, row.mnemonic = i.mnemonic ∧ row.selects w = true := by
  obtain ⟨hwf, hencode⟩ := encode_of_decode h
  exact hencode ▸ encodesItsRow i hwf

/-- The mask of a row fixes every bit, or it is the row of GETBIT or of SETBIT. -/
theorem row_cases : ∀ row ∈ opcodeRows,
    (row.maskBits = BitVec.allOnes 32 ∧ ¬ listedIllegal row.matchBits.toNat) ∨
      row = ⟨"GETBIT", 0x00000010, 0xFF8000FF⟩ ∨ row = ⟨"SETBIT", 0x00000011, 0xFE8000FF⟩ := by
  decide

/-- Where the mask of a row is all ones, the word has the row's bits. -/
theorem extractLsb'_eq_of_selects {row : OpcodeRow} {w : Word} (start len : Nat) (h : row.selects w = true)
    (hmask : row.maskBits.extractLsb' start len = BitVec.allOnes len) :
    w.extractLsb' start len = row.matchBits.extractLsb' start len := by
  rw [← beq_iff_eq.mp h, BitVec.extractLsb'_and, hmask, BitVec.and_allOnes]

/-! ### The listed words (30_encoding.md R94) -/

/-- The list of R94 on the fields of the word: which operation codes there are, and which ones each field that is set, or a
selector above its range, leaves. -/
theorem not_listedIllegal_iff {w : Word} :
    ¬ listedIllegal w.toNat ↔
      (fieldOpc w).toNat ∈ [0x00, 0x01, 0x02, 0x03, 0x10, 0x11, 0x12, 0x13, 0x14, 0x15, 0x16, 0x17] ∧
      fieldReserved23 w = 0 ∧ fieldReservedTop w = 0 ∧
      (fieldV w = 1 → (fieldOpc w).toNat = 0x11) ∧
      (fieldWd w ≠ 0 → (fieldOpc w).toNat ∈ [0x10, 0x11]) ∧
      (fieldP w ≠ 0 → (fieldOpc w).toNat ∉ [0x00, 0x01, 0x02, 0x03, 0x13, 0x14, 0x15]) ∧
      (3 < (fieldP w).toNat → (fieldOpc w).toNat ≠ 0x12) ∧
      (1 < (fieldP w).toNat → (fieldOpc w).toNat ∉ [0x16, 0x17]) := by
  have hzero {n : Nat} (x : BitVec n) : x = 0 ↔ x.toNat = 0 := by simp [← BitVec.toNat_inj]
  have hone : fieldV w = 1 ↔ (fieldV w).toNat = 1 := by simp [← BitVec.toNat_inj]
  simp only [listedIllegal, hzero, hone, fieldOpc_toNat, fieldP_toNat, fieldWd_toNat, fieldReserved23_toNat, fieldV_toNat,
    fieldReservedTop_toNat, not_or, not_and, Decidable.not_not, ne_eq]

/-- A word that a row selects is not listed. -/
theorem not_listedIllegal_of_selects {w : Word} {row : OpcodeRow} (hrow : row ∈ opcodeRows) (h : row.selects w = true) :
    ¬ listedIllegal w.toNat := by
  obtain ⟨hmask, hmatch⟩ | rfl | rfl := row_cases row hrow
  · have hw : w = row.matchBits := by
      rw [← beq_iff_eq.mp h, hmask, BitVec.and_allOnes]
    rwa [hw]
  · have hopc : fieldOpc w = 0x10 := extractLsb'_eq_of_selects 0 8 h (by decide)
    have h23 : fieldReserved23 w = 0 := extractLsb'_eq_of_selects 23 1 h (by decide)
    have hv : fieldV w = 0 := extractLsb'_eq_of_selects 24 1 h (by decide)
    have htop : fieldReservedTop w = 0 := extractLsb'_eq_of_selects 25 7 h (by decide)
    rw [not_listedIllegal_iff]
    simp [hopc, h23, hv, htop]
  · have hopc : fieldOpc w = 0x11 := extractLsb'_eq_of_selects 0 8 h (by decide)
    have h23 : fieldReserved23 w = 0 := extractLsb'_eq_of_selects 23 1 h (by decide)
    have htop : fieldReservedTop w = 0 := extractLsb'_eq_of_selects 25 7 h (by decide)
    rw [not_listedIllegal_iff]
    simp [hopc, h23, htop]

/-- A word that is not listed decodes. -/
theorem exists_decode_of_not_listedIllegal {w : Word} (h : ¬ listedIllegal w.toNat) : ∃ i, decode w = .ok i := by
  obtain ⟨hopc, h23, htop, hvOnly, hwdOnly, hpNot, hp4, hp2⟩ := not_listedIllegal_iff.mp h
  have hv (hne : (fieldOpc w).toNat ≠ 0x11) : fieldV w = 0 := fieldV_eq_zero_of_ne_one (mt hvOnly hne)
  have hwd (hnot : (fieldOpc w).toNat ∉ [0x10, 0x11]) : fieldWd w = 0 := not_not.mp (mt hwdOnly hnot)
  have hplain (j : Instr) (hmem : (fieldOpc w).toNat ∈ [0x00, 0x01, 0x02, 0x03, 0x13, 0x14, 0x15]) :
      ∃ i, decodePlain w j = .ok i := by
    have hside : ∀ o ∈ [0x00, 0x01, 0x02, 0x03, 0x13, 0x14, 0x15], o ≠ 0x11 ∧ o ∉ [0x10, 0x11] := by decide
    obtain ⟨hne, hnot⟩ := hside _ hmem
    have hp : fieldP w = 0 := not_not.mp fun hset => hpNot hset hmem
    exact ⟨j, decodePlain_eq_ok.mpr ⟨hv hne, hwd hnot, hp, rfl⟩⟩
  have hselector (choices : List Instr) (hmem : (fieldOpc w).toNat ∈ [0x12, 0x16, 0x17])
      (hp : (fieldP w).toNat < choices.length) : ∃ i, decodeSelector w choices = .ok i := by
    have hside : ∀ o ∈ [0x12, 0x16, 0x17], o ≠ 0x11 ∧ o ∉ [0x10, 0x11] := by decide
    obtain ⟨hne, hnot⟩ := hside _ hmem
    exact exists_decodeSelector_eq_ok (hv hne) (hwd hnot) hp
  simp only [List.mem_cons, List.not_mem_nil, or_false] at hopc
  obtain ho | ho | ho | ho | ho | ho | ho | ho | ho | ho | ho | ho := hopc <;>
    simp only [decode, h23, htop, ne_eq, not_true_eq_false, or_self, if_false, ho]
  · exact hplain .nop (by simp [ho])
  · exact hplain .encrypt (by simp [ho])
  · exact hplain .ksched (by simp [ho])
  · exact hplain .clear (by simp [ho])
  · exact ⟨_, if_neg (not_not.mpr (hv (by simp [ho])))⟩
  · exact ⟨_, rfl⟩
  · exact hselector _ (by simp [ho]) (Nat.lt_succ_of_le (not_lt.mp fun h4 => hp4 h4 ho))
  · exact hplain .expand (by simp [ho])
  · exact hplain .subst (by simp [ho])
  · exact hplain .sperm (by simp [ho])
  · exact hselector _ (by simp [ho]) (Nat.lt_succ_of_le (not_lt.mp fun h2 => hp2 h2 (by simp [ho])))
  · exact hselector _ (by simp [ho]) (Nat.lt_succ_of_le (not_lt.mp fun h2 => hp2 h2 (by simp [ho])))

/-- The listed words are the words that no row selects. -/
theorem listedIllegal_iff_no_row {w : Word} :
    listedIllegal w.toNat ↔ ∀ row ∈ opcodeRows, row.selects w = false := by
  constructor
  · intro hlisted row hrow
    exact Bool.eq_false_iff.mpr fun h => not_listedIllegal_of_selects hrow h hlisted
  · intro hnone
    by_contra hlegal
    obtain ⟨i, hi⟩ := exists_decode_of_not_listedIllegal hlegal
    obtain ⟨row, hrow, -, h⟩ := exists_selects_of_decode hi
    exact Bool.false_ne_true ((hnone row hrow).symm.trans h)

/-- A listed word does not decode. -/
theorem decode_eq_error_of_listedIllegal {w : Word} (h : listedIllegal w.toNat) : ∃ e, decode w = .error e := by
  cases hd : decode w with
  | error e => exact ⟨e, rfl⟩
  | ok i =>
    obtain ⟨row, hrow, -, hsel⟩ := exists_selects_of_decode hd
    exact absurd h (not_listedIllegal_of_selects hrow hsel)

/-! ### The write of a word to CMD while idle -/

/-- The write of a word to CMD while idle is answered OK and issues the word (46_control_and_host_access.md R264). -/
theorem step_commandWrite {s : State} {w : Word} {rest : List Event} (h : atCommandWrite w rest s) :
    step s = commandWrite w (answered .ok rest s) := by
  obtain ⟨hidle, hinputs⟩ := h
  have hnotBusy : busy (answered .ok rest s) = false := by
    simp [busy, hidle]
  rw [step_hostWrite .cmd hinputs, regWriteValid, if_neg (by decide), hnotBusy, if_neg Bool.false_ne_true, if_pos rfl]

/-- A word that does not decode is rejected with ILLEGAL_CMD (60_exceptions.md R283). -/
theorem commandWrite_of_error {w : Word} {e : DecodeReject} (h : decode w = .error e) (s : State) :
    commandWrite w s = .next (rejectedWith .illegalCmd s) := by
  simp only [commandWrite, h]
  rfl

/-- Settles O5: the listed words are those that no row selects, and those that do not decode; what does not decode is
rejected. -/
theorem illegalWordsAreRejected : Obligations.IllegalWordsAreRejected := by
  refine fun w => ⟨listedIllegal_iff_no_row, exists_decode_of_not_listedIllegal, fun s rest hlisted hwrite => ?_⟩
  obtain ⟨e, he⟩ := decode_eq_error_of_listedIllegal hlisted
  rw [step_commandWrite hwrite, commandWrite_of_error he]

end Sys2Proof.Machine
end

section
/-! The bit utilities (spec/40_bit_utilities.md R121, R124 to R126; spec/60_exceptions.md R284). The laws of SetBit and GetBit
come first, then the words of GETBIT and SETBIT as numbers, the write of a command while idle, and the two Exec steps. -/

namespace Sys2Proof.Machine

open Sys2Proof.Safety (verdict)
open Sys2Proof.Claims (answered rejectedWith acceptedForExec completedWith bitInRange bitNat listedIllegal atCommandWrite)

/-! ### The laws of SetBit and GetBit (40_bit_utilities.md R121) -/

section SetBit

variable {W : Nat} (x : BitVec W) {p q : Nat}

theorem getBit_setBit_same (v : Bool) (hp : inWord W p) : getBit (setBit x p v hp) p hp = v := by
  rw [getBit_eq_getLsbD, getLsbD_setBit _ _ _ _ _ (by omega), if_pos rfl]

theorem getBit_setBit_of_ne (v : Bool) (hp : inWord W p) (hq : inWord W q) (hne : q ≠ p) :
    getBit (setBit x p v hp) q hq = getBit x q hq := by
  rw [getBit_eq_getLsbD, getBit_eq_getLsbD, getLsbD_setBit _ _ _ _ _ (by omega), if_neg (by omega)]

theorem setBit_getBit (hp : inWord W p) : setBit x p (getBit x p hp) hp = x := by
  apply BitVec.eq_of_getLsbD_eq
  intro j hj
  rw [getLsbD_setBit _ _ _ _ _ hj, getBit_eq_getLsbD]
  split_ifs with hpos
  · rw [hpos]
  · rfl

end SetBit

/-- Settles O40: the bits of a word with one position replaced. -/
theorem setBitThenGetBit : Obligations.SetBitThenGetBit :=
  fun _ x _ _ v hp hq => ⟨getBit_setBit_same x v hp, getBit_setBit_of_ne x v hp hq, setBit_getBit x hp⟩

/-! ### The words of GETBIT and SETBIT (30_encoding.md R90, R92) -/

/-- A command word as the number that its fields make. -/
theorem commandWord_toNat (opc p : BitVec 8) (wd : BitVec 7) (v : Bool) :
    (commandWord opc p wd v).toNat = opc.toNat + 256 * p.toNat + 65536 * wd.toNat + 16777216 * bitNat v := by
  have hopc : opc.toNat = (commandWord opc p wd v).toNat % 256 := by
    rw [← fieldOpc_toNat, fieldOpc_commandWord]
  have hp : p.toNat = (commandWord opc p wd v).toNat / 256 % 256 := by
    rw [← fieldP_toNat, fieldP_commandWord]
  have hwd : wd.toNat = (commandWord opc p wd v).toNat / 65536 % 128 := by
    rw [← fieldWd_toNat, fieldWd_commandWord]
  have h23 : 0 = (commandWord opc p wd v).toNat / 8388608 % 2 := by
    rw [← fieldReserved23_toNat, fieldReserved23_commandWord]
    rfl
  have hv : bitNat v = (commandWord opc p wd v).toNat / 16777216 % 2 := by
    rw [← fieldV_toNat, fieldV_commandWord]
    cases v <;> rfl
  have htop : 0 = (commandWord opc p wd v).toNat / 33554432 := by
    rw [← fieldReservedTop_toNat, fieldReservedTop_commandWord]
    rfl
  omega

/-- The word of GETBIT or SETBIT as a number, for arguments that fit their fields. -/
theorem commandWord_ofNat_toNat {p wd : Nat} (opc : BitVec 8) (v : Bool) (hp : p < 256) (hwd : wd < 128) :
    (commandWord opc (BitVec.ofNat 8 p) (BitVec.ofNat 7 wd) v).toNat =
      opc.toNat + 256 * p + 65536 * wd + 16777216 * bitNat v := by
  rw [commandWord_toNat, BitVec.toNat_ofNat, BitVec.toNat_ofNat, Nat.mod_eq_of_lt hp, Nat.mod_eq_of_lt hwd]

theorem encode_getbit_toNat {p wd : Nat} (hp : p < 256) (hwd : wd < 128) :
    (encode (.getbit p wd)).toNat = 0x10 + 256 * p + 65536 * wd :=
  commandWord_ofNat_toNat 0x10 false hp hwd

theorem encode_setbit_toNat {p wd : Nat} (v : Bool) (hp : p < 256) (hwd : wd < 128) :
    (encode (.setbit p wd v)).toNat = 0x11 + 256 * p + 65536 * wd + 16777216 * bitNat v :=
  commandWord_ofNat_toNat 0x11 v hp hwd

/-- The decoder gives GETBIT back with the numbers of its fields. -/
theorem decode_commandWord_getbit (p : BitVec 8) (wd : BitVec 7) :
    decode (commandWord 0x10 p wd false) = .ok (.getbit p.toNat wd.toNat) := by
  simp [decode]

/-- The decoder gives SETBIT back with the numbers of its fields and its bit. -/
theorem decode_commandWord_setbit (p : BitVec 8) (wd : BitVec 7) (v : Bool) :
    decode (commandWord 0x11 p wd v) = .ok (.setbit p.toNat wd.toNat v) := by
  cases v <;> simp [decode]

theorem decode_encode_getbit {p wd : Nat} (hp : p < 256) (hwd : wd < 128) :
    decode (encode (.getbit p wd)) = .ok (.getbit p wd) := by
  rw [encode, decode_commandWord_getbit, BitVec.toNat_ofNat, BitVec.toNat_ofNat, Nat.mod_eq_of_lt hp,
    Nat.mod_eq_of_lt hwd]

theorem decode_encode_setbit {p wd : Nat} (v : Bool) (hp : p < 256) (hwd : wd < 128) :
    decode (encode (.setbit p wd v)) = .ok (.setbit p wd v) := by
  rw [encode, decode_commandWord_setbit, BitVec.toNat_ofNat, BitVec.toNat_ofNat, Nat.mod_eq_of_lt hp,
    Nat.mod_eq_of_lt hwd]

theorem wellFormed_getbit_iff {p wd : Nat} : WellFormed (.getbit p wd) ↔ p < 256 ∧ wd < 128 := by
  simp [WellFormed, Instr.wf]

theorem wellFormed_setbit_iff {p wd : Nat} {v : Bool} : WellFormed (.setbit p wd v) ↔ p < 256 ∧ wd < 128 :=
  wellFormed_getbit_iff

/-- When the decoder gives a command back from its word, no other word decodes to it (30_encoding.md R92). -/
theorem decode_eq_ok_iff_of_decode_encode {w : Word} {i : Instr} (hback : WellFormed i → decode (encode i) = .ok i) :
    decode w = .ok i ↔ WellFormed i ∧ w.toNat = (encode i).toNat := by
  constructor
  · intro h
    obtain ⟨hwf, rfl⟩ := encode_of_decode h
    exact ⟨hwf, rfl⟩
  · rintro ⟨hwf, hw⟩
    rw [BitVec.eq_of_toNat_eq hw]
    exact hback hwf

/-- The words of GETBIT as numbers. -/
theorem decode_eq_getbit_iff {w : Word} {p wd : Nat} :
    decode w = .ok (.getbit p wd) ↔ p < 256 ∧ wd < 128 ∧ w.toNat = 0x10 + 256 * p + 65536 * wd := by
  have hback (hwf : WellFormed (.getbit p wd)) : decode (encode (.getbit p wd)) = .ok (.getbit p wd) := by
    obtain ⟨hp, hwd⟩ := wellFormed_getbit_iff.mp hwf
    exact decode_encode_getbit hp hwd
  rw [decode_eq_ok_iff_of_decode_encode hback, wellFormed_getbit_iff, and_assoc]
  exact and_congr_right fun hp => and_congr_right fun hwd => by rw [encode_getbit_toNat hp hwd]

/-- The words of SETBIT as numbers. -/
theorem decode_eq_setbit_iff {w : Word} {p wd : Nat} {v : Bool} :
    decode w = .ok (.setbit p wd v) ↔
      p < 256 ∧ wd < 128 ∧ w.toNat = 0x11 + 256 * p + 65536 * wd + 16777216 * bitNat v := by
  have hback (hwf : WellFormed (.setbit p wd v)) : decode (encode (.setbit p wd v)) = .ok (.setbit p wd v) := by
    obtain ⟨hp, hwd⟩ := wellFormed_setbit_iff.mp hwf
    exact decode_encode_setbit v hp hwd
  rw [decode_eq_ok_iff_of_decode_encode hback, wellFormed_setbit_iff, and_assoc]
  exact and_congr_right fun hp => and_congr_right fun hwd => by rw [encode_setbit_toNat v hp hwd]

/-- Written while idle, a listed word is rejected with ILLEGAL_CMD. -/
theorem step_of_listedIllegal {w : Word} {s : State} {rest : List Event} (hlisted : listedIllegal w.toNat)
    (hwrite : atCommandWrite w rest s) : step s = .next (rejectedWith .illegalCmd (answered .ok rest s)) :=
  have ⟨_, _, hrejected⟩ := illegalWordsAreRejected w
  hrejected s rest hlisted hwrite

/-- A word of GETBIT's operation code with a bit above WD set is listed: V or a reserved bit. -/
theorem listedIllegal_getbit {w : Word} (hopc : w.toNat % 256 = 0x10) (hhigh : 8388608 ≤ w.toNat) :
    listedIllegal w.toNat := by
  have hset : w.toNat / 8388608 % 2 ≠ 0 ∨ w.toNat / 33554432 ≠ 0 ∨ w.toNat / 16777216 % 2 = 1 := by omega
  obtain h23 | htop | hv := hset
  · exact .inr (.inl h23)
  · exact .inr (.inr (.inl htop))
  · exact .inr (.inr (.inr (.inl ⟨hv, by omega⟩)))

/-- A word with a reserved bit set is listed. -/
theorem listedIllegal_of_reserved {w : Word} (hset : w.toNat / 8388608 % 2 = 1 ∨ 33554432 ≤ w.toNat) :
    listedIllegal w.toNat := by
  obtain h23 | htop := hset
  · exact .inr (.inl (by omega))
  · exact .inr (.inr (.inl (by omega)))

/-! ### The write of a command while idle (46_control_and_host_access.md R264) -/

/-- While idle, a command whose checks pass and that has an Exec step is accepted for it. -/
theorem exec_idle_of_valid {i : Instr} {s : State} (hidle : s.phase = .idle) (hvalid : verdict i s = none)
    (hencrypt : i ≠ .encrypt) (hksched : i ≠ .ksched) : exec i s = .next (acceptedForExec (encode i) s) := by
  have hstart : startsWithSchedule (encode i) = false :=
    Bool.eq_false_iff.mpr fun h => (startsWithSchedule_encode.mp h).elim hencrypt hksched
  rw [exec_eq_transact, transact_idle hidle, hvalid, issue, accept, hstart]
  rfl

/-- While idle, a command that fails a check is rejected with its code. -/
theorem exec_idle_of_invalid {i : Instr} {s : State} {code : ErrCode} (hidle : s.phase = .idle)
    (hinvalid : verdict i s = some code) : exec i s = .next (rejectedWith code s) := by
  rw [exec_eq_transact, transact_idle hidle, hinvalid]
  rfl

/-! ### The range check (40_bit_utilities.md R126) -/

theorem bitPositionOk_iff_bitInRange {p wd : Nat} : bitPositionOk p wd ↔ bitInRange p wd := and_assoc

theorem checkBitPosition_of_inRange {p wd : Nat} (h : bitInRange p wd) : checkBitPosition p wd = none :=
  checkBitPosition_eq_none.mpr (bitPositionOk_iff_bitInRange.mpr h)

theorem checkBitPosition_of_not_inRange {p wd : Nat} (h : ¬ bitInRange p wd) :
    checkBitPosition p wd = some .badBitpos := by
  rw [checkBitPosition, firstFailing, decide_eq_true (mt bitPositionOk_iff_bitInRange.mp h)]
  rfl

/-- Written while idle, a command whose only check is the range check is accepted with its word, here given as the number
n, when width and position are in range, and rejected with BAD_BITPOS otherwise. -/
theorem exec_idle_of_checkBitPosition {i : Instr} {s : State} {p wd n : Nat} (hidle : s.phase = .idle)
    (hcheck : verdict i s = checkBitPosition p wd) (hencrypt : i ≠ .encrypt) (hksched : i ≠ .ksched)
    (hword : bitInRange p wd → (encode i).toNat = n) :
    exec i s = .next
      (if bitInRange p wd then acceptedForExec (BitVec.ofNat 32 n) s else rejectedWith .badBitpos s) := by
  split_ifs with hrange
  · rw [← hword hrange, BitVec.ofNat_toNat, BitVec.setWidth_eq]
    exact exec_idle_of_valid hidle (hcheck.trans (checkBitPosition_of_inRange hrange)) hencrypt hksched
  · exact exec_idle_of_invalid hidle (hcheck.trans (checkBitPosition_of_not_inRange hrange))

theorem exec_getbit_idle {s : State} (p wd : Nat) (hidle : s.phase = .idle) :
    exec (.getbit p wd) s = .next (if bitInRange p wd
      then acceptedForExec (BitVec.ofNat 32 (0x10 + 256 * p + 65536 * wd)) s else rejectedWith .badBitpos s) :=
  exec_idle_of_checkBitPosition hidle rfl (by simp) (by simp) fun _ => encode_getbit_toNat (by omega) (by omega)

theorem exec_setbit_idle {s : State} (p wd : Nat) (v : Bool) (hidle : s.phase = .idle) :
    exec (.setbit p wd v) s = .next (if bitInRange p wd
      then acceptedForExec (BitVec.ofNat 32 (0x11 + 256 * p + 65536 * wd + 16777216 * bitNat v)) s
      else rejectedWith .badBitpos s) :=
  exec_idle_of_checkBitPosition hidle rfl (by simp) (by simp) fun _ => encode_setbit_toNat v (by omega) (by omega)

/-- Settles O19: the two branches of the check. -/
theorem bitPositionsAreChecked : Obligations.BitPositionsAreChecked := by
  intro s p wd v hidle
  rw [exec_getbit_idle p wd hidle, exec_setbit_idle p wd v hidle]
  refine ⟨fun hrange => ?_, fun hrange => ?_⟩
  · rw [if_pos hrange, if_pos hrange]
    exact ⟨rfl, rfl⟩
  · rw [if_neg hrange, if_neg hrange]
    exact ⟨rfl, rfl⟩

/-! ### The Exec steps (40_bit_utilities.md R124, R125) -/

/-- In range, GetBit of the right-aligned word is the bit that its weight 2^(W − p) selects in the register. -/
theorem rightAligned_getBit_rightWord (c : Block) {p wd : Nat} (h : inWord wd p) :
    rightAligned (BitVec.ofBool (getBit (rightWord wd c) p h)) = BitVec.ofNat 64 (c.toNat / 2 ^ (wd - p) % 2) := by
  have hbit : getBit (rightWord wd c) p h = c.toNat.testBit (wd - p) := by
    rw [getBit_eq_getLsbD, getLsbD_rightWord, decide_eq_true (by omega), Bool.true_and, BitVec.getLsbD]
  have hnat (b : Bool) : rightAligned (BitVec.ofBool b) = BitVec.ofNat 64 b.toNat := by
    cases b <;> rfl
  rw [hbit, hnat, Nat.toNat_testBit]

/-- In range, the bits of SetBit of the right-aligned word, zero-extended. -/
theorem getLsbD_rightAligned_setBit_rightWord (c : Block) {p wd : Nat} (v : Bool) (h : inWord wd p) {j : Nat}
    (hj : j < 64) :
    (rightAligned (setBit (rightWord wd c) p v h)).getLsbD j =
      if wd ≤ j then false else if j = wd - p then v else c.getLsbD j := by
  rw [getLsbD_rightAligned, decide_eq_true hj, Bool.true_and]
  split_ifs with habove hpos
  · exact BitVec.getLsbD_of_ge _ _ habove
  · rw [getLsbD_setBit _ _ _ _ _ (by omega), if_pos hpos]
  · rw [getLsbD_setBit _ _ _ _ _ (by omega), if_neg hpos, getLsbD_rightWord, decide_eq_true (by omega),
      Bool.true_and]

theorem exec_getbit_exec {s : State} {p wd : Nat} (hphase : s.phase = .exec) (hrange : bitInRange p wd) :
    exec (.getbit p wd) s = .next (completedWith (BitVec.ofNat 64 (s.blk.toNat / 2 ^ (wd - p) % 2)) s) := by
  have hok : bitPositionOk p wd := bitPositionOk_iff_bitInRange.mpr hrange
  rw [exec_eq_transact, transact_exec hphase, execStepOf, getbitStep_of_ok hok, rightAligned_getBit_rightWord]
  rfl

theorem exec_setbit_exec {s : State} {p wd : Nat} (v : Bool) (hphase : s.phase = .exec) (hok : bitPositionOk p wd) :
    exec (.setbit p wd v) s = .next (completedWith (rightAligned (setBit (rightWord wd s.blk) p v hok.2)) s) := by
  rw [exec_eq_transact, transact_exec hphase, execStepOf, setbitStep_of_ok hok]
  rfl

/-! ### The statements on the two commands -/

/-- Settles O24: the words, the illegal words, the check and the Exec step of GETBIT. -/
theorem getbitReadsTheBit : Obligations.GetbitReadsTheBit :=
  ⟨fun _ _ _ => decode_eq_getbit_iff,
    fun _ _ _ hopc hhigh hwrite => step_of_listedIllegal (listedIllegal_getbit hopc hhigh) hwrite,
    fun _ p wd hidle => exec_getbit_idle p wd hidle,
    fun _ _ _ hphase hrange => exec_getbit_exec hphase hrange⟩

/-- Settles O25: the words, the illegal words, the check and the Exec step of SETBIT, bit by bit. -/
theorem setbitReplacesTheBit : Obligations.SetbitReplacesTheBit := by
  refine ⟨fun _ _ _ _ => decode_eq_setbit_iff,
    fun _ _ _ _ hset hwrite => step_of_listedIllegal (listedIllegal_of_reserved hset) hwrite,
    fun _ p wd v hidle => exec_setbit_idle p wd v hidle, fun s p wd v hphase hrange => ?_⟩
  have hok : bitPositionOk p wd := bitPositionOk_iff_bitInRange.mpr hrange
  exact ⟨_, exec_setbit_exec v hphase hok, fun _ hj => getLsbD_rightAligned_setBit_rightWord s.blk v hok.2 hj⟩

end Sys2Proof.Machine
end

section
/-! PERMUTE (spec/41_permutation.md R148). The words of a command without arguments and the write of one while idle come
first, then the source bits of an aligned permutation, which are the same for all four tables. -/

namespace Sys2Proof.Machine

open Sys2Proof.Safety (verdict)
open Sys2Proof.Claims (sourceBit encodedAs otherwiseIllegal alwaysAccepted completedWith)

/-! ### The words of a command and its acceptance (30_encoding.md R92, R94; 46_control_and_host_access.md R264) -/

theorem encodedAs_encode {i : Instr} (hback : decode (encode i) = .ok i) : encodedAs (encode i) i := by
  refine fun w => ⟨fun h => ?_, fun hw => hw ▸ hback⟩
  obtain ⟨-, hencode⟩ := encode_of_decode h
  exact hencode.symm

theorem alwaysAccepted_encode {i : Instr} (hvalid : ∀ s, verdict i s = none) (hencrypt : i ≠ .encrypt)
    (hksched : i ≠ .ksched) : alwaysAccepted (encode i) i :=
  fun s hidle => exec_idle_of_valid hidle (hvalid s) hencrypt hksched

/-- When the commands of an operation code all have their words on the list, its other words are illegal: a word that
decodes is the word of its command. -/
theorem otherwiseIllegal_of_encode_mem {opc : Nat} {legal : List Word}
    (hmem : ∀ i, (fieldOpc (encode i)).toNat = opc → encode i ∈ legal) : otherwiseIllegal opc legal := by
  intro w s rest hopc hnot hwrite
  cases hdecode : decode w with
  | error e => rw [step_commandWrite hwrite, commandWrite_of_error hdecode]
  | ok i =>
    obtain ⟨-, rfl⟩ := encode_of_decode hdecode
    exact absurd (hmem i ((fieldOpc_toNat _).trans hopc)) hnot

/-- The commands with the operation code of PERMUTE are its four. -/
theorem permute_of_fieldOpc_encode {i : Instr} (h : (fieldOpc (encode i)).toNat = 0x12) :
    i ∈ [.permuteIp, .permuteFp, .permutePc1, .permutePc2] := by
  cases i <;> simp_all [encode]

theorem otherwiseIllegal_permute : otherwiseIllegal 0x12 [0x00000012, 0x00000112, 0x00000212, 0x00000312] := by
  refine otherwiseIllegal_of_encode_mem fun i hopc => ?_
  have hwords : [Instr.permuteIp, .permuteFp, .permutePc1, .permutePc2].map encode =
      [0x00000012, 0x00000112, 0x00000212, 0x00000312] := rfl
  exact hwords ▸ List.mem_map_of_mem (permute_of_fieldOpc_encode hopc)

/-- In phase Exec, a command whose step delivers v completes with v in OUT (46_control_and_host_access.md R265, R266). -/
theorem exec_exec_of_deliver {i : Instr} {s : State} {v : Block} (hphase : s.phase = .exec)
    (hstep : execStepOf i s = .next (deliver v s)) : exec i s = .next (completedWith v s) := by
  rw [exec_eq_transact, transact_exec hphase, hstep]
  rfl

/-! ### Source bits of aligned words and of a permutation (00_scope.md R10, R11; 41_permutation.md R140) -/

theorem getLsbD_leftAligned {W : Nat} (x : BitVec W) (i : Nat) :
    (leftAligned x).getLsbD i = (decide (i < 64) && !decide (i < 64 - W) && x.getLsbD (i - (64 - W))) := by
  unfold leftAligned
  rw [BitVec.getLsbD_shiftLeft, BitVec.getLsbD_setWidth]
  by_cases hi : i < 64
  · simp [show i - (64 - W) < 64 by omega]
  · simp [hi]

/-- Left-aligning keeps the source positions. -/
theorem sourceBit_leftAligned {W p : Nat} (x : BitVec W) (hW : W ≤ 64) (hp : inWord W p) :
    sourceBit (leftAligned x) p = sourceBit x p := by
  obtain ⟨hpos, hle⟩ := hp
  rw [sourceBit, getLsbD_leftAligned, decide_eq_true (by omega), decide_eq_false (by omega), Bool.not_false,
    Bool.true_and, Bool.true_and, sourceBit]
  congr 1
  omega

/-- A left-aligned result has nothing below its own bits. -/
theorem leftAligned_toNat_mod {W : Nat} (x : BitVec W) : (leftAligned x).toNat % 2 ^ (64 - W) = 0 := by
  unfold leftAligned
  rw [BitVec.toNat_shiftLeft, Nat.shiftLeft_eq, Nat.mod_mod_of_dvd _ (pow_dvd_pow 2 (Nat.sub_le 64 W)),
    Nat.mul_mod_left]

/-- A left-aligned operand has the source positions of its container. -/
theorem sourceBit_leftWord {W p : Nat} (c : Block) (hW : W ≤ 64) (hp : inWord W p) :
    sourceBit (leftWord W c) p = sourceBit c p := by
  obtain ⟨hpos, hle⟩ := hp
  rw [sourceBit, getLsbD_leftWord, decide_eq_true (by omega), Bool.true_and, sourceBit]
  congr 1
  omega

/-- Output bit i of a permutation is input bit table[i]. -/
theorem sourceBit_permute {win n : Nat} (x : BitVec win) (t : PermTable win n) (i : Fin n) :
    sourceBit (permute x t) (i + 1) = sourceBit x (t.entry i) := by
  have hi : i.val < n := i.isLt
  rw [sourceBit, getLsbD_permute _ _ _ (by omega), sourceBit]
  congr 3
  apply Fin.ext
  simp only
  omega

theorem PermTable.getD_entries {win n : Nat} (t : PermTable win n) (i : Fin n) : t.entries.getD i 0 = t.entry i :=
  List.getD_eq_getElem _ _ (t.length_eq.symm ▸ i.isLt)

/-- The left-aligned permutation of a left-aligned operand moves the source bits of the container by the table. -/
theorem sourceBit_leftAligned_permute_leftWord {win n : Nat} (hwin : win ≤ 64) (hn : n ≤ 64) (c : Block)
    (t : PermTable win n) (i : Fin n) :
    sourceBit (leftAligned (permute (leftWord win c) t)) (i + 1) = sourceBit c (t.entries.getD i 0) := by
  have hi : inWord n (i + 1) := ⟨Nat.succ_pos _, i.isLt⟩
  rw [sourceBit_leftAligned _ hn hi, sourceBit_permute, sourceBit_leftWord _ hwin (t.entry_inWord i), t.getD_entries]

/-- Settles O26: the four words, the illegal words, the acceptance, and the Exec step with each of the four tables. -/
theorem permuteMovesTheBits : Obligations.PermuteMovesTheBits := by
  have hword : ∀ i ∈ [Instr.permuteIp, .permuteFp, .permutePc1, .permutePc2],
      encodedAs (encode i) i ∧ alwaysAccepted (encode i) i := by
    simp only [List.forall_mem_cons, List.not_mem_nil, false_imp_iff, implies_true, and_true]
    refine ⟨?_, ?_, ?_, ?_⟩ <;>
      exact ⟨encodedAs_encode rfl, alwaysAccepted_encode (fun _ => rfl) (by decide) (by decide)⟩
  refine ⟨hword .permuteIp (by decide), hword .permuteFp (by decide), hword .permutePc1 (by decide),
    hword .permutePc2 (by decide), otherwiseIllegal_permute, fun s hphase => ⟨?_, ?_, ?_, ?_⟩⟩
  · exact ⟨_, exec_exec_of_deliver hphase rfl,
      sourceBit_leftAligned_permute_leftWord (by decide) (by decide) s.blk tableIP⟩
  · exact ⟨_, exec_exec_of_deliver hphase rfl,
      sourceBit_leftAligned_permute_leftWord (by decide) (by decide) s.blk tableFP⟩
  · exact ⟨_, exec_exec_of_deliver hphase rfl, leftAligned_toNat_mod _,
      sourceBit_leftAligned_permute_leftWord (by decide) (by decide) s.blk tablePC1⟩
  · exact ⟨_, exec_exec_of_deliver hphase rfl, leftAligned_toNat_mod _,
      sourceBit_leftAligned_permute_leftWord (by decide) (by decide) s.blk tablePC2⟩

end Sys2Proof.Machine
end

section
/-! EXPAND, SUBST and SPERM (spec/42_expansion_substitution_straight.md R173 to R175). What the three share comes first:
their words and acceptance, and the right-aligned operand and result. The tables' part of each follows. -/

namespace Sys2Proof.Machine

open Sys2Proof.Claims (encodedAs otherwiseIllegal alwaysAccepted completedWith expandedFrom boxes)

/-! ### The words of the three commands (30_encoding.md R92, R94; 46_control_and_host_access.md R264) -/

/-- Each of the three commands is the only one with its operation code. -/
theorem eq_of_fieldOpc_encode_eq {i j : Instr} (hi : i ∈ [Instr.expand, .subst, .sperm])
    (hopc : fieldOpc (encode j) = fieldOpc (encode i)) : j = i := by
  fin_cases hi <;> cases j <;> simp_all [encode]

/-- An operation code that only one command has leaves every other word with it illegal. -/
theorem otherwiseIllegal_singleton {i : Instr} (hunique : ∀ j, fieldOpc (encode j) = fieldOpc (encode i) → j = i) :
    otherwiseIllegal (fieldOpc (encode i)).toNat [encode i] :=
  otherwiseIllegal_of_encode_mem fun j hopc => List.mem_singleton.mpr (hunique j (BitVec.eq_of_toNat_eq hopc) ▸ rfl)

/-- Each of the three commands has one word and is accepted in every idle state. -/
theorem stage_word_and_acceptance {i : Instr} (hi : i ∈ [Instr.expand, .subst, .sperm]) :
    encodedAs (encode i) i ∧ otherwiseIllegal (fieldOpc (encode i)).toNat [encode i] ∧
      alwaysAccepted (encode i) i := by
  have hillegal := otherwiseIllegal_singleton fun _ => eq_of_fieldOpc_encode_eq hi
  fin_cases hi <;>
    exact ⟨encodedAs_encode rfl, hillegal, alwaysAccepted_encode (fun _ => rfl) (by decide) (by decide)⟩

/-! ### Right-aligned operands and results (00_scope.md R11, R19) -/

/-- A right-aligned result has nothing above its own bits. -/
theorem rightAligned_toNat_lt {W : Nat} (x : BitVec W) : (rightAligned x).toNat < 2 ^ W := by
  rw [rightAligned, BitVec.toNat_setWidth]
  exact (Nat.mod_le _ _).trans_lt x.isLt

theorem rightAligned_toNat {W : Nat} (x : BitVec W) (hW : W ≤ 64) : (rightAligned x).toNat = x.toNat := by
  rw [rightAligned, BitVec.toNat_setWidth_of_le hW]

theorem sourceSlice_toNat {W : Nat} (x : BitVec W) (skip len : Nat) :
    (sourceSlice x skip len).toNat = x.toNat / 2 ^ (W - skip - len) % 2 ^ len := by
  rw [sourceSlice, BitVec.extractLsb'_toNat, Nat.shiftRight_eq_div_pow]

/-- The slices of a right-aligned operand are bits of its container. -/
theorem sourceSlice_rightWord_toNat {W skip len : Nat} (c : Block) (h : skip + len ≤ W) :
    (sourceSlice (rightWord W c) skip len).toNat = c.toNat / 2 ^ (W - skip - len) % 2 ^ len := by
  have hslice : sourceSlice (rightWord W c) skip len = c.extractLsb' (W - skip - len) len := by
    refine BitVec.eq_of_getLsbD_eq fun i hi => ?_
    rw [getLsbD_sourceSlice, getLsbD_rightWord, BitVec.getLsbD_extractLsb', decide_eq_true (p := _ < W) (by omega),
      Bool.true_and]
  rw [hslice, BitVec.extractLsb'_toNat, Nat.shiftRight_eq_div_pow]

/-- The right-aligned permutation of a right-aligned operand moves the bits of the container by the table. -/
theorem getLsbD_rightAligned_permute_rightWord {win n : Nat} (hn : n ≤ 64) (c : Block) (t : PermTable win n)
    (i : Fin n) :
    (rightAligned (permute (rightWord win c) t)).getLsbD (n - 1 - i) = c.getLsbD (win - t.entries.getD i 0) := by
  have hi : i.val < n := i.isLt
  obtain ⟨hpos, hle⟩ := t.entry_inWord i
  have hindex : (⟨n - 1 - (n - 1 - i), by omega⟩ : Fin n) = i := Fin.ext (by simp only; omega)
  rw [getLsbD_rightAligned, decide_eq_true (by omega), Bool.true_and, getLsbD_permute _ _ _ (by omega), hindex,
    getLsbD_rightWord, decide_eq_true (by omega), Bool.true_and, t.getD_entries]

/-! ### EXPAND and SPERM: the bits moved by E and by P (R161, R172) -/

/-- Row k of E is the positions 4k to 4k + 5 with wrap-around. -/
theorem tableE_getD : ∀ (k : Fin 8) (j : Fin 6), tableE.entries.getD (6 * k + j) 0 = expandedFrom k j := by
  decide

theorem getLsbD_rightAligned_expand_rightWord (c : Block) (k : Fin 8) (j : Fin 6) :
    (rightAligned (expand (rightWord 32 c))).getLsbD (47 - (6 * k + j)) = c.getLsbD (32 - expandedFrom k j) := by
  rw [← tableE_getD]
  exact getLsbD_rightAligned_permute_rightWord (by decide) c tableE ⟨6 * k + j, by omega⟩

/-- Settles O27: the word, its acceptance, and the Exec step with the table E read row by row. -/
theorem expandFansOut : Obligations.ExpandFansOut := by
  obtain ⟨hword, hillegal, haccepted⟩ := stage_word_and_acceptance (i := .expand) (by decide)
  exact ⟨hword, hillegal, haccepted, fun s hphase => ⟨_, exec_exec_of_deliver hphase rfl, rightAligned_toNat_lt _,
    getLsbD_rightAligned_expand_rightWord s.blk⟩⟩

/-- Settles O29: the word, its acceptance, and the Exec step with the table P. -/
theorem spermMovesTheBits : Obligations.SpermMovesTheBits := by
  obtain ⟨hword, hillegal, haccepted⟩ := stage_word_and_acceptance (i := .sperm) (by decide)
  exact ⟨hword, hillegal, haccepted, fun s hphase => ⟨_, exec_exec_of_deliver hphase rfl, rightAligned_toNat_lt _,
    getLsbD_rightAligned_permute_rightWord (by decide) s.blk tableP⟩⟩

/-! ### SUBST: one group through one box (R162) -/

theorem SBox.getElem?_entries (b : SBox) (row : BitVec 2) (col : BitVec 4) :
    b.entries[row.toNat * 16 + col.toNat]? = some (b.lookup row col) :=
  List.getElem?_eq_getElem _

/-- The row of a group is its outer bits. -/
theorem groupRow_toNat (g : BitVec 6) :
    (sourceSlice g 0 1 ++ sourceSlice g 5 1).toNat = g.toNat / 32 * 2 + g.toNat % 2 := by
  have hlow : (sourceSlice g 5 1).toNat < 2 ^ 1 := BitVec.isLt _
  rw [BitVec.toNat_append, ← Nat.shiftLeft_add_eq_or_of_lt hlow, Nat.shiftLeft_eq, sourceSlice_toNat,
    sourceSlice_toNat]
  omega

/-- The output of a group is the entry of its box at the row of the outer and the column of the middle bits. -/
theorem getElem?_entries_of_group (b : SBox) (g : BitVec 6) :
    b.entries[(g.toNat / 32 * 2 + g.toNat % 2) * 16 + g.toNat / 2 % 16]? = some (substGroup b g) := by
  have hcol : (sourceSlice g 1 4).toNat = g.toNat / 2 % 16 := sourceSlice_toNat g 1 4
  rw [← groupRow_toNat, ← hcol]
  exact b.getElem?_entries _ _

/-! ### SUBST: the eight nibbles side by side (R162) -/

/-- The last word of a concatenation. -/
theorem sourceSlice_append_last {m n skip : Nat} (a : BitVec m) (b : BitVec n) (h : skip = m) :
    sourceSlice (a ++ b) skip n = b := by
  refine BitVec.eq_of_getLsbD_eq fun i hi => ?_
  rw [getLsbD_sourceSlice, BitVec.getLsbD_append]
  simp [h, hi]

/-- A slice of a concatenation that ends within its first word. -/
theorem sourceSlice_append_first {m n skip len : Nat} (a : BitVec m) (b : BitVec n) (h : skip + len ≤ m) :
    sourceSlice (a ++ b) skip len = sourceSlice a skip len := by
  refine BitVec.eq_of_getLsbD_eq fun i hi => ?_
  rw [getLsbD_sourceSlice, getLsbD_sourceSlice, BitVec.getLsbD_append, if_neg (by omega)]
  congr 2
  omega

theorem sourceSlice_zero_self {W : Nat} (x : BitVec W) : sourceSlice x 0 W = x := by
  refine BitVec.eq_of_getLsbD_eq fun i hi => ?_
  rw [getLsbD_sourceSlice]
  simp [hi]

/-- The nibbles of a concatenation of eight, the first one most significant. -/
theorem sourceSlice_eightNibbles (o : Fin 8 → BitVec 4) (k : Fin 8) :
    sourceSlice (o 0 ++ o 1 ++ o 2 ++ o 3 ++ o 4 ++ o 5 ++ o 6 ++ o 7) (4 * k) 4 = o k := by
  fin_cases k
  · simp (disch := decide) only [sourceSlice_append_first]
    exact sourceSlice_zero_self (o 0)
  all_goals
    simp (disch := decide) only [sourceSlice_append_first, sourceSlice_append_last]
    rfl

/-- The k-th nibble of Substitute is the k-th group through the k-th box, k counted from 0. -/
theorem sourceSlice_substitute (x : Expanded) (k : Fin 8) :
    sourceSlice (substitute x) (4 * k) 4 = substGroup (boxes[k.val]'k.isLt) (sourceSlice x (6 * k) 6) :=
  sourceSlice_eightNibbles (fun k => substGroup (boxes[k.val]'k.isLt) (sourceSlice x (6 * k) 6)) k

theorem ofNat_rightAligned_div {W : Nat} (x : BitVec W) (hW : W ≤ 64) (skip len : Nat) :
    BitVec.ofNat len ((rightAligned x).toNat / 2 ^ (W - skip - len)) = sourceSlice x skip len := by
  refine BitVec.eq_of_toNat_eq ?_
  rw [BitVec.toNat_ofNat, rightAligned_toNat x hW, sourceSlice_toNat]

theorem ofNat_nibble_substitute_rightWord (c : Block) (k : Fin 8) :
    let g := c.toNat / 2 ^ (42 - 6 * k.val) % 64
    (boxes[k.val]?.bind fun b => b.entries[(g / 32 * 2 + g % 2) * 16 + g / 2 % 16]?) =
      some (BitVec.ofNat 4 ((rightAligned (substitute (rightWord 48 c))).toNat / 2 ^ (28 - 4 * k.val))) := by
  intro g
  have hg : g = (sourceSlice (rightWord 48 c) (6 * k) 6).toNat := by
    rw [sourceSlice_rightWord_toNat c (by omega), show 48 - 6 * k.val - 6 = 42 - 6 * k.val by omega]
    rfl
  have hbox : boxes[k.val]? = some (boxes[k.val]'k.isLt) := List.getElem?_eq_getElem k.isLt
  rw [hbox, Option.bind_some, hg, getElem?_entries_of_group, ← sourceSlice_substitute,
    ← ofNat_rightAligned_div _ (by decide), show 32 - 4 * k.val - 4 = 28 - 4 * k.val by omega]

/-- Settles O28: the word, its acceptance, and the Exec step nibble by nibble. -/
theorem substLooksUp : Obligations.SubstLooksUp := by
  obtain ⟨hword, hillegal, haccepted⟩ := stage_word_and_acceptance (i := .subst) (by decide)
  exact ⟨hword, hillegal, haccepted, fun s hphase => ⟨_, exec_exec_of_deliver hphase rfl, rightAligned_toNat_lt _,
    ofNat_nibble_substitute_rightWord s.blk⟩⟩

end Sys2Proof.Machine
end

section
/-! The check of a mixing command (spec/43_xo_mixing.md R191). The domain of the 32-bit scaling comes first (R185), then the
triple of a register value, then the answer of each check by the lengths stored. -/

namespace Sys2Proof.Machine

open Sys2Proof.Claims (length1 length2 length3 lengthSum isSingleSegment)

/-! ### The triples without a 32-bit scaling (43_xo_mixing.md R185) -/

/-- Of the partitions of 48 only (48, 0, 0) has no 32-bit triple: with a top length below 48 the scaled top length is at most
31, which leaves room for the two others. -/
theorem not_seg32OK_iff {t : Triple} (hvalid : valid48 t) : ¬ seg32OK t ↔ t = ⟨48, 0, 0⟩ := by
  refine ⟨fun hneg => ?_, fun ht => ht ▸ by decide⟩
  obtain ⟨top, middle, bottom⟩ := t
  simp only [valid48, isPartition, Config.segTotal48, Nat.cast_ofNat] at hvalid
  obtain ⟨htop, hmiddle, hbottom, hsum⟩ := hvalid
  have hlast : 48 ≤ top := by
    by_contra hlt
    refine hneg ?_
    simp only [seg32OK, scale32]
    split_ifs
    · show 0 ≤ 32 - max 1 (top * 32 / 48) - 1
      omega
    · show 0 ≤ max 1 (middle * 32 / 48)
      omega
  simp only [Triple.mk.injEq]
  omega

/-! ### The triple stored in a register (10_state.md R29) -/

theorem tripleOf_eq (v : BitVec 24) : tripleOf v = ⟨length1 v, length2 v, length3 v⟩ := by
  have hlen : length1 v < 256 := by
    unfold length1
    omega
  simp only [tripleOf, BitVec.extractLsb'_toNat, Nat.shiftRight_eq_div_pow, Triple.mk.injEq, Nat.cast_inj]
  exact ⟨Nat.mod_eq_of_lt hlen, rfl, by simp [length3]⟩

theorem valid48_tripleOf {v : BitVec 24} : valid48 (tripleOf v) ↔ lengthSum v = 48 := by
  rw [tripleOf_eq, lengthSum]
  simp only [valid48, isPartition, Config.segTotal48]
  omega

theorem tripleOf_eq_single {v : BitVec 24} : tripleOf v = ⟨48, 0, 0⟩ ↔ isSingleSegment v := by
  rw [tripleOf_eq, Triple.mk.injEq]
  omega

theorem lengthSum_of_isSingleSegment {v : BitVec 24} (h : isSingleSegment v) : lengthSum v = 48 := by
  obtain ⟨h1, h2, h3⟩ := h
  rw [lengthSum, h1, h2, h3]

theorem seg32OK_tripleOf {v : BitVec 24} (hsum : lengthSum v = 48) : seg32OK (tripleOf v) ↔ ¬ isSingleSegment v := by
  rw [← tripleOf_eq_single, ← not_seg32OK_iff (valid48_tripleOf.mpr hsum), not_not]

/-! ### The checks by the stored lengths (43_xo_mixing.md R191) -/

section Checks

variable {v : BitVec 24} {code : ErrCode}

theorem checkMix48_of_lengthSum (hsum : lengthSum v = 48) : checkMix48 (tripleOf v) code = none :=
  checkMix48_eq_none.mpr (valid48_tripleOf.mpr hsum)

theorem checkMix48_of_lengthSum_ne (hsum : lengthSum v ≠ 48) : checkMix48 (tripleOf v) code = some code := by
  rw [checkMix48, firstFailing, decide_eq_true (mt valid48_tripleOf.mp hsum)]
  rfl

theorem checkMix32_of_not_single (hsum : lengthSum v = 48) (hsingle : ¬ isSingleSegment v) :
    checkMix32 (tripleOf v) code = none :=
  checkMix32_eq_none.mpr ⟨valid48_tripleOf.mpr hsum, (seg32OK_tripleOf hsum).mpr hsingle⟩

theorem checkMix32_of_lengthSum_ne (hsum : lengthSum v ≠ 48) : checkMix32 (tripleOf v) code = some code := by
  rw [checkMix32, firstFailing, decide_eq_true (mt valid48_tripleOf.mp hsum)]
  rfl

theorem checkMix32_of_single (hsingle : isSingleSegment v) : checkMix32 (tripleOf v) code = some .invalidSeg32 := by
  rw [tripleOf_eq_single.mpr hsingle]
  rfl

end Checks

/-- Settles O20: the verdict of each command is its check on the triple of the register it selects, and the write of a
command while idle follows the verdict. -/
theorem mixTriplesAreChecked : Obligations.MixTriplesAreChecked := by
  intro s hidle
  refine ⟨fun hsum => ⟨?_, ?_⟩, fun hsum => ⟨?_, ?_⟩, fun hsum => ?_, fun hsum => ?_, fun hsingle => ?_,
    fun hsingle => ?_, fun hsum hsingle => ?_, fun hsum hsingle => ?_⟩
  · exact exec_idle_of_invalid hidle (checkMix48_of_lengthSum_ne hsum)
  · exact exec_idle_of_invalid hidle (checkMix32_of_lengthSum_ne hsum)
  · exact exec_idle_of_invalid hidle (checkMix48_of_lengthSum_ne hsum)
  · exact exec_idle_of_invalid hidle (checkMix32_of_lengthSum_ne hsum)
  · exact exec_idle_of_valid hidle (checkMix48_of_lengthSum hsum) (by simp) (by simp)
  · exact exec_idle_of_valid hidle (checkMix48_of_lengthSum hsum) (by simp) (by simp)
  · exact exec_idle_of_invalid hidle (checkMix32_of_single hsingle)
  · exact exec_idle_of_invalid hidle (checkMix32_of_single hsingle)
  · exact exec_idle_of_valid hidle (checkMix32_of_not_single hsum hsingle) (by simp) (by simp)
  · exact exec_idle_of_valid hidle (checkMix32_of_not_single hsum hsingle) (by simp) (by simp)

end Sys2Proof.Machine
end

section
/-! The key schedule step (spec/44_key_schedule.md R219): what the latched operation code selects, then the step as the one
transition of any command in phase KeySched. -/

namespace Sys2Proof.Machine

section KeySchedStep

variable {s : State}

/-- The branch of ENCRYPT. -/
theorem keySchedStep_of_opc_encrypt (hop : s.op.toNat % 256 = 1) :
    keySchedStep s = { s with sk := keySchedule s.key, phase := .initial } := by
  have hopc : fieldOpc s.op = 0x01 := BitVec.eq_of_toNat_eq ((fieldOpc_toNat s.op).trans hop)
  rw [keySchedStep, if_pos hopc]

/-- The branch of every other operation code, KSCHED's among them: SKVALID and completion. -/
theorem keySchedStep_of_opc_ne_encrypt (hop : s.op.toNat % 256 ≠ 1) :
    keySchedStep s = { s with sk := keySchedule s.key, skValid := true, done := true, phase := .idle } := by
  have hopc : fieldOpc s.op ≠ 0x01 := fun h => hop ((fieldOpc_toNat s.op).symm.trans (congrArg BitVec.toNat h))
  rw [keySchedStep, if_neg hopc, complete]

/-- In phase KeySched the transition of a command is the schedule step, whichever command it is. -/
theorem exec_keySched (i : Instr) (hphase : s.phase = .keySched) : exec i s = .next (keySchedStep s) := by
  rw [exec_eq_transact, transact_keySched hphase]

end KeySchedStep

/-- Settles O32: the transition is the schedule step, whose branch the latched operation code selects. -/
theorem keySchedStepWritesTheFile : Obligations.KeySchedStepWritesTheFile := by
  intro s hphase
  refine ⟨fun hencrypt => ?_, fun hksched => ?_⟩
  · rw [exec_keySched .encrypt hphase, keySchedStep_of_opc_encrypt hencrypt]
  · have hother : s.op.toNat % 256 ≠ 1 := by omega
    rw [exec_keySched .ksched hphase, keySchedStep_of_opc_ne_encrypt hother]

end Sys2Proof.Machine
end

section
/-! ENCRYPT's own steps (spec/45_feistel_driver.md R231, R234, R236). The source bits of slices and of concatenations
come first, then the Initial and the FinalSwap step; the run from the command write to idle is last. -/

namespace Sys2Proof.Machine

open Sys2Proof.Safety (verdict runsIn)
open Sys2Proof.Claims (sourceBit answered afterEvent acceptedForSchedule encryptAllowed atCommandWrite phaseAfter)

/-! ### Source bits of slices and of concatenations (00_scope.md R10, R19) -/

/-- A slice counts its source positions from where it begins. -/
theorem sourceBit_sourceSlice {W skip len p : Nat} (x : BitVec W) (hfit : skip + len ≤ W) (hp : inWord len p) :
    sourceBit (sourceSlice x skip len) p = sourceBit x (skip + p) := by
  obtain ⟨hpos, hle⟩ := hp
  rw [sourceBit, getLsbD_sourceSlice, decide_eq_true (by omega), Bool.true_and, sourceBit]
  congr 1
  omega

/-- The source positions of a concatenation run through its first word, then through its second. -/
theorem sourceBit_append {m n p : Nat} (a : BitVec m) (b : BitVec n) (hp : inWord (m + n) p) :
    sourceBit (a ++ b) p = if p ≤ m then sourceBit a p else sourceBit b (p - m) := by
  obtain ⟨hpos, hle⟩ := hp
  rw [sourceBit, BitVec.getLsbD_append]
  by_cases hfirst : p ≤ m
  · rw [if_neg (by omega), if_pos hfirst, sourceBit]
    congr 1
    omega
  · rw [if_pos (by omega), if_neg hfirst, sourceBit]
    congr 1
    omega

/-! ### The Initial step (45_feistel_driver.md R234) -/

/-- A slice of IP of a block moves the source bits of the block by the part of the table that it covers. -/
theorem sourceBit_sourceSlice_permute_tableIP (c : Block) {skip len : Nat} (hfit : skip + len ≤ 64) (i : Fin len) :
    sourceBit (sourceSlice (permute c tableIP) skip len) (i + 1) =
      sourceBit c (tableIP.entries.getD (skip + i) 0) := by
  have hbit := sourceBit_permute c tableIP ⟨skip + i, by omega⟩
  rw [← PermTable.getD_entries] at hbit
  exact (sourceBit_sourceSlice _ hfit ⟨Nat.succ_pos _, i.isLt⟩).trans hbit

theorem exec_encrypt_initial {s : State} (hphase : s.phase = .initial) :
    exec .encrypt s = .next (initialStep s) := by
  rw [exec_eq_transact, transact_initial hphase]

/-- Settles O33: L and R are the two slices of IP of BLK. -/
theorem initialStepSplitsTheBlock : Obligations.InitialStepSplitsTheBlock := by
  refine fun s hphase => ⟨_, _, exec_encrypt_initial hphase, fun i => ?_, fun i => ?_⟩
  · have hbit := sourceBit_sourceSlice_permute_tableIP s.blk (skip := 0) (by decide) i
    rwa [Nat.zero_add] at hbit
  · exact sourceBit_sourceSlice_permute_tableIP s.blk (by decide) i

/-! ### The FinalSwap step (45_feistel_driver.md R236) -/

theorem issue_out (i : Instr) (v : Option ErrCode) (s : State) : (issue i v s).out = s.out := by
  cases v <;> rfl

/-- OUT is not changed by ENCRYPT before the FinalSwap step. -/
theorem exec_encrypt_out {s t : State} (hphase : s.phase ≠ .finalSwap) (h : exec .encrypt s = .next t) :
    t.out = s.out := by
  rw [exec_eq_transact] at h
  obtain ⟨-, rfl⟩ | ⟨-, rfl⟩ | ⟨-, rfl⟩ | ⟨-, hround⟩ | ⟨hfinal, -⟩ | ⟨-, hexec⟩ := transact_next h
  · exact issue_out _ _ s
  · exact keySchedStep_out s
  · exact initialStep_out s
  · obtain ⟨-, -, rfl⟩ := roundStep_next hround
    exact advanceRound_out _ s
  · exact absurd hfinal hphase
  · cases hexec

theorem exec_encrypt_finalSwap {s : State} (hphase : s.phase = .finalSwap) :
    exec .encrypt s = .next (finalSwapStep s) := by
  rw [exec_eq_transact, transact_finalSwap hphase]

/-- The final block moves the source bits of R ‖ L by FP. -/
theorem sourceBit_finalBlock (x : Halves) (i : Fin 64) :
    sourceBit (finalBlock x) (i + 1) =
      if tableFP.entries.getD i 0 ≤ 32 then sourceBit x.r (tableFP.entries.getD i 0)
      else sourceBit x.l (tableFP.entries.getD i 0 - 32) := by
  rw [finalBlock, sourceBit_permute, PermTable.getD_entries]
  exact sourceBit_append x.r x.l (tableFP.entry_inWord i)

/-- Settles O35: the other phases leave OUT as it is, and the FinalSwap step writes the final block of L and R. -/
theorem finalSwapStepDelivers : Obligations.FinalSwapStepDelivers :=
  ⟨fun _ _ hphase => exec_encrypt_out hphase,
    fun s hphase => ⟨_, exec_encrypt_finalSwap hphase, sourceBit_finalBlock ⟨s.l, s.r⟩⟩⟩

/-! ### The checks of ENCRYPT and its acceptance (45_feistel_driver.md R232) -/

/-- The checks by the stored lengths: SEGP_WIRED being 0, the site triple is the primary one
(45_feistel_driver.md R238). -/
theorem verdict_encrypt_eq_none_iff {s : State} : verdict .encrypt s = none ↔ encryptAllowed s := by
  have hcheck : verdict .encrypt s = none ↔
      valid48 (tripleOf s.seg) ∧ valid48 (tripleOf s.segp) ∧ seg32OK (tripleOf s.seg) := checkEncrypt_eq_none
  rw [hcheck, valid48_tripleOf, valid48_tripleOf]
  exact and_congr_right fun hsum => and_congr_right fun _ => seg32OK_tripleOf hsum

/-- While idle, an ENCRYPT whose checks pass is accepted and enters KeySched (46_control_and_host_access.md R264). -/
theorem exec_encrypt_idle {s : State} (hidle : s.phase = .idle) (hallowed : encryptAllowed s) :
    exec .encrypt s = .next (acceptedForSchedule (encode .encrypt) s) := by
  rw [exec_eq_transact, transact_idle hidle, verdict_encrypt_eq_none_iff.mpr hallowed]
  rfl

/-! ### One engine step of ENCRYPT, seen in its phase and round index (45_feistel_driver.md R231) -/

/-- Where ENCRYPT goes from a phase and a round index. -/
def encryptSuccessor : Phase × BitVec 4 → Phase × BitVec 4
  | (.keySched, r) => (.initial, r)
  | (.initial, _) => (.round, 0)
  | (.round, r) => if r.toNat < 15 then (.round, r + 1) else (.finalSwap, r)
  | (.finalSwap, _) => (.idle, 0)
  | q => q

/-- The successors of the first position are the positions that R231 lists. -/
theorem encryptSuccessor_phaseAfter (r₀ : BitVec 4) {n : Nat} (hn : n < 19) :
    encryptSuccessor (phaseAfter r₀ n) = phaseAfter r₀ (n + 1) := by
  interval_cases n <;> rfl

/-- In its first nineteen positions ENCRYPT is in one of its phases. -/
theorem runsIn_phaseAfter (r₀ : BitVec 4) {n : Nat} (hn : n < 19) : runsIn .encrypt (phaseAfter r₀ n).1 := by
  interval_cases n <;> simp [phaseAfter, runsIn]

/-- An ENCRYPT that was accepted is at the phase and round index q, and these events are to come. -/
structure EncryptAt (q : Phase × BitVec 4) (events : List Event) (s : State) : Prop where
  latched : s.op = encode .encrypt
  allowed : encryptAllowed s
  position : (s.phase, s.rIdx) = q
  pending : s.inputs = events

/-- The acceptance of an ENCRYPT puts it at KeySched, r being what it was. -/
theorem encryptAt_accepted {s : State} (hallowed : encryptAllowed s) :
    EncryptAt (phaseAfter s.rIdx 0) s.inputs (acceptedForSchedule (encode .encrypt) s) :=
  ⟨rfl, hallowed, rfl, rfl⟩

/-- The Round step of an ENCRYPT whose checks passed. -/
theorem exec_encrypt_round {s : State} (hphase : s.phase = .round) (hallowed : encryptAllowed s) :
    ∃ x : Halves, exec .encrypt s = .next (advanceRound x s) := by
  have hcheck : checkEncrypt Config.segpWired s = none := verdict_encrypt_eq_none_iff.mpr hallowed
  obtain ⟨hvalid, -, -⟩ := checkEncrypt_eq_none.mp hcheck
  rw [exec_eq_transact, transact_round hphase, roundStep_of_valid hvalid (siteTriple_mix32Domain hcheck)]
  exact ⟨_, rfl⟩

/-- A round moves on to the next one, or to FinalSwap after the last. -/
theorem encryptSuccessor_advanceRound (x : Halves) {s : State} (hphase : s.phase = .round) :
    ((advanceRound x s).phase, (advanceRound x s).rIdx) = encryptSuccessor (s.phase, s.rIdx) := by
  rw [advanceRound_phase, advanceRound_rIdx, hphase, encryptSuccessor]
  split_ifs <;> rfl

/-- A transition of an ENCRYPT in one of its phases takes it to the successor of its position; the events to come stay. -/
theorem EncryptAt.exec_next {q : Phase × BitVec 4} {events : List Event} {s : State} (h : EncryptAt q events s)
    (hruns : runsIn .encrypt q.1) : ∃ t, exec .encrypt s = .next t ∧ EncryptAt (encryptSuccessor q) events t := by
  obtain ⟨hop, hallowed, rfl, rfl⟩ := h
  cases hphase : s.phase with
  | idle => simp [hphase, runsIn] at hruns
  | keySched =>
    have hopc : s.op.toNat % 256 = 1 := hop ▸ rfl
    refine ⟨_, exec_keySched .encrypt hphase, ?_⟩
    rw [keySchedStep_of_opc_encrypt hopc]
    exact ⟨hop, hallowed, rfl, rfl⟩
  | initial => exact ⟨_, exec_encrypt_initial hphase, hop, hallowed, rfl, rfl⟩
  | round =>
    obtain ⟨x, hstep⟩ := exec_encrypt_round hphase hallowed
    exact ⟨_, hstep, hop, hallowed, hphase ▸ encryptSuccessor_advanceRound x hphase, rfl⟩
  | finalSwap => exact ⟨_, exec_encrypt_finalSwap hphase, hop, hallowed, rfl, rfl⟩
  | exec => simp [hphase, runsIn] at hruns

/-! ### The run (45_feistel_driver.md R231) -/

/-- A turn of the busy engine as the next event is the transition of the latched command
(46_control_and_host_access.md R266). -/
theorem step_engine_busy {s : State} {i : Instr} {rest : List Event} (hbusy : s.phase ≠ .idle)
    (hdecode : decode s.op = .ok i) (h : s.inputs = .engine :: rest) : step s = exec i (afterEvent rest s) := by
  rw [step, nextEvent_cons h]
  exact engineTurn_busy hbusy hdecode

/-- The next engine turn takes ENCRYPT from its position after n turns to the one after n + 1. -/
theorem EncryptAt.step_next {r₀ : BitVec 4} {n : Nat} {events : List Event} {s : State}
    (h : EncryptAt (phaseAfter r₀ n) (.engine :: events) s) (hn : n < 19) :
    ∃ t, step s = .next t ∧ EncryptAt (phaseAfter r₀ (n + 1)) events t := by
  have hruns : runsIn .encrypt (phaseAfter r₀ n).1 := runsIn_phaseAfter r₀ hn
  obtain ⟨hop, hallowed, hposition, hpending⟩ := h
  have hbusy : s.phase ≠ .idle := by
    intro hidle
    rw [← hposition, hidle] at hruns
    exact hruns
  have hdecode : decode s.op = .ok .encrypt := hop ▸ rfl
  have hat : EncryptAt (phaseAfter r₀ n) events (afterEvent events s) := ⟨hop, hallowed, hposition, rfl⟩
  rw [step_engine_busy hbusy hdecode hpending, ← encryptSuccessor_phaseAfter r₀ hn]
  exact hat.exec_next hruns

/-- k engine turns in a row take ENCRYPT k positions further. -/
theorem EncryptAt.run_next {r₀ : BitVec 4} {n k : Nat} {rest : List Event} {s : State}
    (h : EncryptAt (phaseAfter r₀ n) (List.replicate k .engine ++ rest) s) (hn : n + k ≤ 19) :
    ∃ t, Host.Core.run core k s = .next t ∧ EncryptAt (phaseAfter r₀ (n + k)) rest t := by
  induction k generalizing n s with
  | zero => exact ⟨s, run_zero s, h⟩
  | succ k ih =>
    obtain ⟨u, hstep, hu⟩ := h.step_next (by omega)
    rw [run_succ_of_step hstep, show n + (k + 1) = n + 1 + k by omega]
    exact ih hu (by omega)

/-- The write of ENCRYPT to CMD while idle, its checks holding, is answered OK and accepted. -/
theorem step_encrypt_write {s : State} {rest : List Event} (hwrite : atCommandWrite 0x00000001 rest s)
    (hallowed : encryptAllowed s) :
    step s = .next (acceptedForSchedule (encode .encrypt) (answered .ok rest s)) := by
  rw [step_commandWrite hwrite]
  obtain ⟨hidle, -⟩ := hwrite
  exact exec_encrypt_idle hidle hallowed

/-- Settles O46: the acceptance, then n engine turns from position 0. -/
theorem encryptVisitsItsPhases : Obligations.EncryptVisitsItsPhases := by
  intro s rest n hidle hallowed hn hinputs
  have haccepted := encryptAt_accepted (s := answered .ok (List.replicate n .engine ++ rest) s) hallowed
  obtain ⟨t, hrun, ht⟩ := haccepted.run_next (by omega)
  rw [Nat.zero_add] at ht
  exact ⟨t, (run_succ_of_step (step_encrypt_write ⟨hidle, hinputs⟩ hallowed) n).trans hrun, ht.position⟩

end Sys2Proof.Machine
end

section
/-! The dispatch of a host access and NOP (spec/46_control_and_host_access.md R260, R262, R263). What the numbers of the map say
comes first: the parts of a 64-bit register, STATUS and the subkey window as numbers; then every register's read and write at
its offset, and the steps that the dispatch of a write is put together from. -/

namespace Sys2Proof.Machine

open Sys2Proof.Claims (encodedAs otherwiseIllegal alwaysAccepted answered rejectedWith atCommandWrite validOffset bitNat
  statusNumber windowNumber readNumber upperReplaced lowerReplaced dataWritten)

/-! ### The parts of a 64-bit register as numbers (20_memory.md R63) -/

/-- A concatenation as the number that its two words make. -/
theorem toNat_append_eq_add {m n : Nat} (a : BitVec m) (b : BitVec n) :
    (a ++ b).toNat = a.toNat * 2 ^ n + b.toNat := by
  rw [BitVec.toNat_append, ← Nat.shiftLeft_add_eq_or_of_lt b.isLt, Nat.shiftLeft_eq]

theorem hiWord_toNat (x : Block) : (hiWord x).toNat = x.toNat / 2 ^ 32 := by
  have hlt : x.toNat / 2 ^ 32 < 2 ^ 32 := Nat.div_lt_of_lt_mul x.isLt
  rw [hiWord, BitVec.extractLsb'_toNat, Nat.shiftRight_eq_div_pow, Nat.mod_eq_of_lt hlt]

theorem loWord_toNat (x : Block) : (loWord x).toNat = x.toNat % 2 ^ 32 := by
  rw [loWord, BitVec.extractLsb'_toNat, Nat.shiftRight_zero]

theorem withHi_eq_upperReplaced (x : Block) (v : Word) : withHi x v = upperReplaced x v := by
  rw [withHi, upperReplaced, ← loWord_toNat, ← toNat_append_eq_add, BitVec.ofNat_toNat, BitVec.setWidth_eq]

theorem withLo_eq_lowerReplaced (x : Block) (v : Word) : withLo x v = lowerReplaced x v := by
  rw [withLo, lowerReplaced, ← hiWord_toNat, ← toNat_append_eq_add, BitVec.ofNat_toNat, BitVec.setWidth_eq]

/-- The low bits of a word, as the number modulo their range. -/
theorem extractLsb'_zero_eq_ofNat (v : Word) (n : Nat) : v.extractLsb' 0 n = BitVec.ofNat n v.toNat := by
  apply BitVec.eq_of_toNat_eq
  rw [BitVec.extractLsb'_toNat, Nat.shiftRight_zero, BitVec.toNat_ofNat]

/-! ### STATUS and the subkey window as numbers (10_state.md R32, R33, R37) -/

theorem ofBool_toNat (b : Bool) : (BitVec.ofBool b).toNat = bitNat b := by
  cases b <;> rfl

/-- BUSY is the bit that the phase gives (10_state.md R33). -/
theorem bitNat_busy (s : State) : bitNat (busy s) = if s.phase = .idle then 0 else 1 := by
  by_cases hidle : s.phase = .idle <;> simp [busy, bitNat, hidle]

theorem statusWord_toNat (s : State) : (statusWord s).toNat = statusNumber s := by
  have hword : (statusWord s).toNat = bitNat (busy s) + 2 * bitNat s.done + 4 * bitNat s.err + 8 * bitNat s.skValid +
      16 * bitNat s.busyErr + 256 * (errCodeBits s.errCode).toNat := by
    simp only [statusWord, toNat_append_eq_add, ofBool_toNat, BitVec.toNat_zero]
    omega
  rw [hword, bitNat_busy, statusNumber]
  cases s.errCode <;> rfl

/-- SK_HI and SK_LO together are what the window shows. -/
theorem readReg_skHi_skLo_eq_windowNumber (s : State) :
    (readReg .skHi s).toNat * 2 ^ 32 + (readReg .skLo s).toNat = windowNumber s :=
  readReg_skHi_skLo_toNat s

theorem readReg_skHi_toNat (s : State) : (readReg .skHi s).toNat = windowNumber s / 2 ^ 32 := by
  have hlo : (readReg .skLo s).toNat < 2 ^ 32 := (readReg .skLo s).isLt
  rw [← readReg_skHi_skLo_eq_windowNumber]
  omega

theorem readReg_skLo_toNat (s : State) : (readReg .skLo s).toNat = windowNumber s % 2 ^ 32 := by
  have hlo : (readReg .skLo s).toNat < 2 ^ 32 := (readReg .skLo s).isLt
  rw [← readReg_skHi_skLo_eq_windowNumber]
  omega

/-! ### The register map at the offsets of the registers -/

/-- Every register reads as the map's number at its offset. -/
theorem readReg_toNat (r : HostReg) (s : State) : (readReg r s).toNat = readNumber (regOffset r) s := by
  cases r with
  | cmd => rfl
  | status => exact statusWord_toNat s
  | keyHi | blkHi | opbHi | outHi => exact hiWord_toNat _
  | keyLo | blkLo | opbLo | outLo => exact loWord_toNat _
  | seg | segp | skidx => exact BitVec.toNat_setWidth_of_le (by decide)
  | skHi => exact readReg_skHi_toNat s
  | skLo => exact readReg_skLo_toNat s

theorem readReg_eq_ofNat (r : HostReg) (s : State) : readReg r s = BitVec.ofNat 32 (readNumber (regOffset r) s) := by
  rw [← readReg_toNat, BitVec.ofNat_toNat, BitVec.setWidth_eq]

/-- The write of a register stores what the map says at its offset; CMD, STATUS and the read-only registers store nothing. -/
theorem writeData_eq_dataWritten (r : HostReg) (v : Word) (s : State) :
    writeData r v s = dataWritten (regOffset r) v s := by
  cases r with
  | cmd | status | outHi | outLo | skHi | skLo => rfl
  | keyHi | blkHi | opbHi => rw [writeData, withHi_eq_upperReplaced]; rfl
  | keyLo | blkLo | opbLo => rw [writeData, withLo_eq_lowerReplaced]; rfl
  | seg | segp | skidx => rw [writeData, extractLsb'_zero_eq_ofNat]; rfl

/-! ### The dispatch (R262, R263) -/

/-- Settles O13: a valid offset is a register's, whose value is the map's number; an invalid one has no register. -/
theorem readsFollowTheMap : Obligations.ReadsFollowTheMap := by
  refine fun s off rest hinputs => ⟨fun hvalid => ?_, fun hinvalid => step_hostRead_invalid hinvalid hinputs⟩
  obtain ⟨r, rfl⟩ := exists_regOffset_of_validOffset hvalid
  rw [step_hostRead r hinputs, readReg_eq_ofNat]

/-- A write to CMD while idle runs the command of the word (R264). -/
theorem step_commandWrite_of_ok {s : State} {w : Word} {rest : List Event} {i : Instr} (hwrite : atCommandWrite w rest s)
    (hdecode : decode w = .ok i) : step s = exec i (answered .ok rest s) := by
  simp only [step_commandWrite hwrite, commandWrite, hdecode]

/-- A write to CMD while idle of a word that is no command is rejected (60_exceptions.md R283). -/
theorem step_commandWrite_of_no_command {s : State} {w : Word} {rest : List Event} (hwrite : atCommandWrite w rest s)
    (hdecode : ∀ i, decode w ≠ .ok i) : step s = .next (rejectedWith .illegalCmd (answered .ok rest s)) := by
  cases he : decode w with
  | ok i => exact absurd he (hdecode i)
  | error e => rw [step_commandWrite hwrite, commandWrite_of_error he]

/-- A write at the offset of a data register or of a read-only one while idle stores what the map says. -/
theorem step_hostWrite_dataWritten {s : State} {off : Nat} {v : Word} {rest : List Event} (hidle : s.phase = .idle)
    (hvalid : validOffset off) (hcmd : off ≠ 0x00) (hstatus : off ≠ 0x04) (h : s.inputs = .hostWrite off v :: rest) :
    step s = .next (dataWritten off v (answered .ok rest s)) := by
  obtain ⟨r, rfl⟩ := exists_regOffset_of_validOffset hvalid
  have hr_status : r ≠ .status := fun hr => hstatus (congrArg regOffset hr)
  have hr_cmd : r ≠ .cmd := fun hr => hcmd (congrArg regOffset hr)
  rw [step_hostWrite_data hidle hr_status hr_cmd h, writeData_eq_dataWritten]

/-- Settles O14, case by case of the dispatch; STATUS and the writes dropped while busy are the cases of O15. -/
theorem writesFollowTheDispatch : Obligations.WritesFollowTheDispatch := by
  intro s off v rest hinputs
  obtain ⟨hdropped, hstatus⟩ := busyWritesAreDropped s off v rest hinputs
  refine ⟨fun hinvalid => step_hostWrite_invalid hinvalid hinputs, hstatus, hdropped, fun hidle hcmd => ?_,
    fun hidle hvalid hcmd hstatus => step_hostWrite_dataWritten hidle hvalid hcmd hstatus hinputs⟩
  subst hcmd
  exact ⟨fun i => step_commandWrite_of_ok ⟨hidle, hinputs⟩, step_commandWrite_of_no_command ⟨hidle, hinputs⟩⟩

/-! ### NOP (R260) -/

/-- NOP is the only command with operation code 0. -/
theorem eq_nop_of_fieldOpc_encode {i : Instr} (hopc : fieldOpc (encode i) = fieldOpc (encode .nop)) : i = .nop := by
  cases i <;> simp_all [encode]

theorem exec_nop_exec {s : State} (hphase : s.phase = .exec) : exec .nop s = .next (complete s) := by
  rw [exec_eq_transact, transact_exec hphase, execStepOf]

/-- Settles O22: the word, the illegal words, the acceptance and the Exec step, which only completes. -/
theorem nopCompletes : Obligations.NopCompletes :=
  ⟨encodedAs_encode rfl, otherwiseIllegal_singleton fun _ => eq_nop_of_fieldOpc_encode,
    alwaysAccepted_encode (fun _ => rfl) (by decide) (by decide), fun _ => exec_nop_exec⟩

end Sys2Proof.Machine
end

section
/-! Commands and their words (spec/30_encoding.md R90, R92, R100). The decoder gives a command back from its word; the
converse is encode_of_decode. Two rows that select one word agree where both masks do, which only a row and itself can. -/

namespace Sys2Proof.Machine

/-- Settles O1: command by command, GETBIT and SETBIT being the two with arguments. -/
theorem decodeOfEncode : Obligations.DecodeOfEncode := by
  intro i hwf
  cases i with
  | getbit p wd =>
    obtain ⟨hp, hwd⟩ := wellFormed_getbit_iff.mp hwf
    exact decode_encode_getbit hp hwd
  | setbit p wd v =>
    obtain ⟨hp, hwd⟩ := wellFormed_setbit_iff.mp hwf
    exact decode_encode_setbit v hp hwd
  | nop | encrypt | ksched | clear | permuteIp | permuteFp | permutePc1 | permutePc2 | expand | subst | sperm
  | mix48Seg | mix48Segp | mix32Seg | mix32Segp => rfl

/-- Settles O2: the fields of a word with reserved bits 0 make the word. -/
theorem encodeOfDecode : Obligations.EncodeOfDecode := fun _ _ => encode_of_decode

/-! ### The rows -/

/-- Two rows whose match bits agree under each other's masks are one row. -/
theorem row_eq_of_masked_match_eq : ∀ a ∈ opcodeRows, ∀ b ∈ opcodeRows,
    a.matchBits &&& b.maskBits = b.matchBits &&& a.maskBits → a = b := by
  decide

/-- Settles O4: under both masks the word has the match bits of either row. -/
theorem rowsAreExclusive : Obligations.RowsAreExclusive := by
  intro w a ha b hb hselA hselB
  have hmatchA : w &&& a.maskBits = a.matchBits := beq_iff_eq.mp hselA
  have hmatchB : w &&& b.maskBits = b.matchBits := beq_iff_eq.mp hselB
  refine row_eq_of_masked_match_eq a ha b hb ?_
  calc a.matchBits &&& b.maskBits = w &&& a.maskBits &&& b.maskBits := by rw [hmatchA]
    _ = w &&& b.maskBits &&& a.maskBits := by
      rw [BitVec.and_assoc, BitVec.and_comm a.maskBits, ← BitVec.and_assoc]
    _ = b.matchBits &&& a.maskBits := by rw [hmatchB]

theorem row_eq_of_mnemonic_eq : ∀ a ∈ opcodeRows, ∀ b ∈ opcodeRows, a.mnemonic = b.mnemonic → a = b := by
  decide

/-- Settles O3: the word selects a row with its command's mnemonic, which is the only row that it selects and the only row
with that mnemonic. -/
theorem decodeFollowsTheRows : Obligations.DecodeFollowsTheRows := by
  intro w i hdecode row hrow
  obtain ⟨own, hown, hmnemonic, hselects⟩ := exists_selects_of_decode hdecode
  constructor
  · intro h
    rw [rowsAreExclusive w row hrow own hown h hselects, hmnemonic]
  · intro h
    rwa [row_eq_of_mnemonic_eq row hrow own hown (h.trans hmnemonic.symm)]

/-- Settles O6: each of the eight words is the word of its command. -/
theorem specWordsDecode : Obligations.SpecWordsDecode :=
  ⟨decodeOfEncode .encrypt rfl, decodeOfEncode .clear rfl, decodeOfEncode (.getbit 8 64) rfl,
    decodeOfEncode (.setbit 2 4 true) rfl, decodeOfEncode .permutePc2 rfl, decodeOfEncode .subst rfl,
    decodeOfEncode .mix48Segp rfl, decodeOfEncode .mix32Seg rfl⟩

end Sys2Proof.Machine
end

section
/-! The invariant of the engine's elements (spec/10_state.md R25 to R28, R34, R35). What it says of an idle and of a busy state
comes first, then the transitions that keep it, in the order of the model: the host's accesses, the write of a command, the
phase steps of KSCHED and ENCRYPT, and the Exec steps. The progress of every step is last. -/

namespace Sys2Proof.Safety

open Sys2Proof.Machine

/-! ### The checks of a command -/

/-- The checks read the two stored triples only. -/
theorem verdict_congr (i : Instr) {s t : State} (hseg : t.seg = s.seg) (hsegp : t.segp = s.segp) :
    verdict i t = verdict i s := by
  obtain ⟨⟩ := s
  obtain ⟨⟩ := t
  simp only at hseg hsegp
  subst hseg hsegp
  cases i <;> rfl

theorem firstFailing_mem {l : List (Bool × ErrCode)} {code : ErrCode} (h : firstFailing l = some code) :
    ∃ fails, (fails, code) ∈ l := by
  induction l with
  | nil => cases h
  | cons head rest ih =>
    obtain ⟨fails, c⟩ := head
    cases fails with
    | true =>
      cases h
      exact ⟨true, List.mem_cons_self⟩
    | false =>
      obtain ⟨fails, hmem⟩ := ih h
      exact ⟨fails, List.mem_cons_of_mem _ hmem⟩

/-- A check that fails has an error code (60_exceptions.md R280). -/
theorem verdict_ne_some_none (i : Instr) (s : State) : verdict i s ≠ some .none := by
  intro h
  cases i with
  | nop | ksched | clear | permuteIp | permuteFp | permutePc1 | permutePc2 | expand | subst | sperm => cases h
  | encrypt | getbit | setbit | mix48Seg | mix48Segp | mix32Seg | mix32Segp =>
    obtain ⟨fails, hmem⟩ := firstFailing_mem h
    simp at hmem

/-! ### What the invariant says of an idle state and of a state in phase Exec -/

/-- The invariant's clauses that do not depend on the phase once the engine is outside KeySched and the rounds. -/
structure AtRest (s : State) : Prop where
  notBoth : ¬ (s.done = true ∧ s.err = true)
  errHasCode : s.err = true ↔ s.errCode ≠ .none
  roundZero : s.rIdx = 0
  halvesZero : s.l = 0 ∧ s.r = 0
  windowValid : s.skValid = true → ∃ k, s.sk = keySchedule k
  windowZero : s.skValid = false → s.sk = Vector.replicate 16 0

section
variable {s : State}

theorem not_inRounds_of_idle (hidle : s.phase = .idle) : ¬ inRounds s := by
  simp [inRounds, hidle]

theorem not_inRounds_of_exec (hexec : s.phase = .exec) : ¬ inRounds s := by
  simp [inRounds, hexec]

theorem EngineInvariant.atRest (h : EngineInvariant s) (hphase : s.phase = .idle ∨ s.phase = .exec) : AtRest s where
  notBoth := h.notBoth
  errHasCode := h.errHasCode
  roundZero := h.roundZero (hphase.elim not_inRounds_of_idle not_inRounds_of_exec)
  halvesZero := h.halvesZero (hphase.elim not_inRounds_of_idle not_inRounds_of_exec)
  windowValid hvalid := (h.windowValid hvalid).2
  windowZero hvalid := h.windowZero hvalid hphase

/-- While idle there is nothing more to the invariant. -/
theorem AtRest.invariant_of_idle (h : AtRest s) (hidle : s.phase = .idle) : EngineInvariant s where
  notBoth := h.notBoth
  errHasCode := h.errHasCode
  busyFlags hbusy := absurd hidle hbusy
  latched hbusy := absurd hidle hbusy
  roundZero _ := h.roundZero
  roundLast hfinal := by rw [hidle] at hfinal; cases hfinal
  halvesZero _ := h.halvesZero
  windowValid hvalid := ⟨.inl hidle, h.windowValid hvalid⟩
  windowZero hvalid _ := h.windowZero hvalid
  scheduleOfKey hrun := by simp [inRounds, hidle] at hrun
  halvesFollow hrounds := absurd hrounds (not_inRounds_of_idle hidle)

end

/-! ### What the invariant says of a busy state outside the rounds and in them -/

theorem runsIn_ne_idle {i : Instr} {p : Phase} (h : runsIn i p) : p ≠ .idle := by
  rintro rfl
  exact h

/-- The invariant's clauses for a running command that is in KeySched, Initial or Exec. -/
structure BeforeRounds (s : State) : Prop where
  notInRounds : ¬ inRounds s
  flags : s.done = false ∧ s.err = false
  errCode : s.errCode = .none
  latched : Latched s
  roundZero : s.rIdx = 0
  halvesZero : s.l = 0 ∧ s.r = 0
  windowValid : s.skValid = true → s.phase = .exec ∧ ∃ k, s.sk = keySchedule k
  windowZero : s.skValid = false → s.phase = .exec → s.sk = Vector.replicate 16 0
  scheduleOfKey : s.phase = .initial → s.sk = keySchedule s.key

theorem BeforeRounds.invariant {s : State} (h : BeforeRounds s) : EngineInvariant s where
  notBoth := by simp [h.flags]
  errHasCode := by simp [h.flags, h.errCode]
  busyFlags _ := h.flags
  latched _ := h.latched
  roundZero _ := h.roundZero
  roundLast hfinal := absurd (.inr hfinal) h.notInRounds
  halvesZero _ := h.halvesZero
  windowValid hvalid := (h.windowValid hvalid).imp_left .inr
  windowZero hvalid hrest := by
    obtain ⟨i, -, -, hruns⟩ := h.latched
    exact h.windowZero hvalid (hrest.resolve_left (runsIn_ne_idle hruns))
  scheduleOfKey hrun := h.scheduleOfKey (hrun.resolve_right h.notInRounds)
  halvesFollow hrounds := absurd hrounds h.notInRounds

/-- The invariant's clauses for a running ENCRYPT that is in the rounds. -/
structure DuringRounds (s : State) : Prop where
  inRounds : inRounds s
  flags : s.done = false ∧ s.err = false
  errCode : s.errCode = .none
  latched : Latched s
  roundLast : s.phase = .finalSwap → s.rIdx = 15
  windowClosed : s.skValid = false
  scheduleOfKey : s.sk = keySchedule s.key
  halvesFollow : HalvesFollow s

theorem DuringRounds.invariant {s : State} (h : DuringRounds s) : EngineInvariant s where
  notBoth := by simp [h.flags]
  errHasCode := by simp [h.flags, h.errCode]
  busyFlags _ := h.flags
  latched _ := h.latched
  roundZero hnot := absurd h.inRounds hnot
  roundLast := h.roundLast
  halvesZero hnot := absurd h.inRounds hnot
  windowValid hvalid := absurd hvalid (Bool.eq_false_iff.mp h.windowClosed)
  windowZero _ hrest := absurd h.inRounds (hrest.elim not_inRounds_of_idle not_inRounds_of_exec)
  scheduleOfKey _ := h.scheduleOfKey
  halvesFollow _ := h.halvesFollow

/-- While busy no error is recorded. -/
theorem EngineInvariant.errCode_eq_none {s : State} (h : EngineInvariant s) (hbusy : s.phase ≠ .idle) :
    s.errCode = .none := by
  obtain ⟨-, herr⟩ := h.busyFlags hbusy
  exact not_not.mp (mt h.errHasCode.mpr (Bool.eq_false_iff.mp herr))

/-- While ENCRYPT or KSCHED runs, SKVALID is 0. -/
theorem EngineInvariant.skValid_eq_false {s : State} (h : EngineInvariant s) (hidle : s.phase ≠ .idle)
    (hexec : s.phase ≠ .exec) : s.skValid = false := by
  by_contra hvalid
  obtain ⟨hrest, -⟩ := h.windowValid (Bool.eq_true_of_not_eq_false hvalid)
  exact hrest.elim hidle hexec

/-- The command in OP is the one that the engine runs. -/
theorem EngineInvariant.runs {s : State} (h : EngineInvariant s) (hbusy : s.phase ≠ .idle) {i : Instr}
    (hdecode : decode s.op = .ok i) : verdict i s = none ∧ runsIn i s.phase := by
  obtain ⟨j, hj, hverdict, hruns⟩ := h.latched hbusy
  obtain rfl : j = i := Except.ok.inj (hj.symm.trans hdecode)
  exact ⟨hverdict, hruns⟩

/-- A command that goes on stays latched, and its checks hold still. -/
theorem Latched.of_next_phase {s t : State} {i : Instr} (hop : t.op = s.op) (hseg : t.seg = s.seg)
    (hsegp : t.segp = s.segp) (hdecode : decode s.op = .ok i) (hverdict : verdict i s = none)
    (hruns : runsIn i t.phase) : Latched t :=
  ⟨i, hop ▸ hdecode, (verdict_congr i hseg hsegp).trans hverdict, hruns⟩

/-! ### The host's accesses and the pending events -/

/-- The invariant does not read the pending events, the answers and BUSYERR. -/
theorem EngineInvariant.host {s : State} (h : EngineInvariant s) (inputs : List Event) (responses : List Response)
    (busyErr : Bool) :
    EngineInvariant { s with inputs := inputs, responses := responses, busyErr := busyErr } where
  notBoth := h.notBoth
  errHasCode := h.errHasCode
  busyFlags := h.busyFlags
  latched hbusy := by
    obtain ⟨i, hdecode, hverdict, hruns⟩ := h.latched hbusy
    exact ⟨i, hdecode, (verdict_congr i rfl rfl).trans hverdict, hruns⟩
  roundZero := h.roundZero
  roundLast := h.roundLast
  halvesZero := h.halvesZero
  windowValid := h.windowValid
  windowZero := h.windowZero
  scheduleOfKey := h.scheduleOfKey
  halvesFollow := h.halvesFollow

theorem EngineInvariant.after_respond {s : State} (h : EngineInvariant s) (a : Response) :
    EngineInvariant (respond a s) :=
  h.host s.inputs (a :: s.responses) s.busyErr

theorem EngineInvariant.after_regRead {s : State} (h : EngineInvariant s) (off : Nat) :
    EngineInvariant (regRead off s) := by
  unfold regRead
  split
  · exact h.after_respond _
  · exact h.after_respond _

/-- A write to a data register while idle changes nothing that the invariant speaks of then. -/
theorem AtRest.after_writeData {s : State} (h : AtRest s) (r : HostReg) (v : Word) : AtRest (writeData r v s) := by
  obtain ⟨hnotBoth, herr, hround, hhalves, hvalid, hzero⟩ := h
  cases r <;> exact ⟨hnotBoth, herr, hround, hhalves, hvalid, hzero⟩

theorem writeData_phase (r : HostReg) (v : Word) (s : State) : (writeData r v s).phase = s.phase := by
  cases r <;> rfl

/-- After a reset the invariant holds, whatever the host still has to do. -/
theorem atRest_resetEvent (s : State) : AtRest (resetEvent s) where
  notBoth := by simp [State.reset]
  errHasCode := by simp [State.reset]
  roundZero := rfl
  halvesZero := ⟨rfl, rfl⟩
  windowValid hvalid := by cases hvalid
  windowZero _ := rfl

/-- Settles O50: the reset state is idle with everything at rest. -/
theorem resetMeetsTheInvariant : Obligations.ResetMeetsTheInvariant :=
  (atRest_resetEvent State.reset).invariant_of_idle rfl

/-! ### The write of a command while idle (46_control_and_host_access.md R264) -/

/-- An accepted command is in one of its phases. -/
theorem runsIn_accept (i : Instr) (s : State) : runsIn i (accept (encode i) s).phase := by
  rw [accept_phase]
  split_ifs with hstart
  · exact startsWithSchedule_encode.mp hstart
  · exact not_or.mp (mt startsWithSchedule_encode.mpr hstart)

section
variable {s : State} (h : EngineInvariant s) (hidle : s.phase = .idle)
include h hidle

theorem EngineInvariant.after_reject {code : ErrCode} (hcode : code ≠ .none) : EngineInvariant (reject code s) := by
  obtain ⟨-, -, hround, hhalves, hvalid, hzero⟩ := h.atRest (.inl hidle)
  exact AtRest.invariant_of_idle ⟨by simp, by simpa using hcode, hround, hhalves, hvalid, hzero⟩ hidle

/-- A command that is accepted is latched; SKVALID is cleared when it makes a schedule and kept otherwise. -/
theorem EngineInvariant.after_accept {i : Instr} (hdecode : decode (encode i) = .ok i) (hverdict : verdict i s = none) :
    EngineInvariant (accept (encode i) s) := by
  obtain ⟨-, -, hround, hhalves, hvalid, hzero⟩ := h.atRest (.inl hidle)
  have hlatched : Latched (accept (encode i) s) :=
    ⟨i, hdecode, (verdict_congr i rfl rfl).trans hverdict, runsIn_accept i s⟩
  cases hstart : startsWithSchedule (encode i) with
  | true =>
    exact BeforeRounds.invariant ⟨by simp [inRounds, hstart], ⟨rfl, rfl⟩, rfl, hlatched, hround, hhalves,
      by simp [hstart], by simp [hstart], by simp [hstart]⟩
  | false =>
    exact BeforeRounds.invariant ⟨by simp [inRounds, hstart], ⟨rfl, rfl⟩, rfl, hlatched, hround, hhalves,
      by simpa [hstart] using hvalid, by simpa [hstart] using hzero, by simp [hstart]⟩

/-- The write of a command's word is its rejection by the first failing check, or its acceptance. -/
theorem EngineInvariant.after_issue {i : Instr} (hdecode : decode (encode i) = .ok i) :
    EngineInvariant (issue i (verdict i s) s) := by
  cases hverdict : verdict i s with
  | some code => exact h.after_reject hidle fun hcode => verdict_ne_some_none i s (hcode ▸ hverdict)
  | none => exact h.after_accept hidle hdecode hverdict

end

/-- Every write that answers a next state keeps the invariant. -/
theorem EngineInvariant.after_regWrite {s t : State} (h : EngineInvariant s) {off : Nat} {v : Word}
    (hwrite : regWrite off v s = .next t) : EngineInvariant t := by
  have hok : EngineInvariant (respond .ok s) := h.after_respond .ok
  obtain ⟨-, rfl⟩ | ⟨-, rfl⟩ | ⟨-, rfl⟩ | ⟨hidle, -, ⟨-, rfl⟩ | ⟨i, hdecode, rfl⟩⟩ | ⟨hidle, r, -, -, -, rfl⟩ :=
    regWrite_cases hwrite
  · exact h.after_respond .error
  · exact hok.host _ _ _
  · exact hok.host _ _ _
  · exact hok.after_reject hidle (by decide)
  · obtain ⟨-, rfl⟩ := encode_of_decode hdecode
    exact hok.after_issue hidle hdecode
  · exact ((hok.atRest (.inl hidle)).after_writeData r v).invariant_of_idle ((writeData_phase r v _).trans hidle)

/-! ### The phase steps (44_key_schedule.md R219, 45_feistel_driver.md R234 to R236) -/

section
variable {s : State} (h : EngineInvariant s) {i : Instr} (hdecode : decode s.op = .ok i)
include h hdecode

theorem EngineInvariant.after_keySchedStep (hphase : s.phase = .keySched) : EngineInvariant (keySchedStep s) := by
  have hbusy : s.phase ≠ .idle := by simp [hphase]
  have hnot : ¬ inRounds s := by simp [inRounds, hphase]
  have hskValid : s.skValid = false := h.skValid_eq_false hbusy (by simp [hphase])
  obtain ⟨hdone, herr⟩ := h.busyFlags hbusy
  obtain ⟨hverdict, hruns⟩ := h.runs hbusy hdecode
  rw [hphase] at hruns
  obtain ⟨-, hword⟩ := encode_of_decode hdecode
  obtain rfl | rfl := hruns
  · have hopc : s.op.toNat % 256 = 1 := hword ▸ rfl
    rw [keySchedStep_of_opc_encrypt hopc]
    refine BeforeRounds.invariant ⟨by simp [inRounds], ⟨hdone, herr⟩, h.errCode_eq_none hbusy,
      Latched.of_next_phase rfl rfl rfl hdecode hverdict rfl, h.roundZero hnot, h.halvesZero hnot, ?_, ?_, fun _ => rfl⟩
    · simp [hskValid]
    · simp
  · have hopc : s.op.toNat % 256 ≠ 1 := by
      rw [← hword]
      decide
    rw [keySchedStep_of_opc_ne_encrypt hopc]
    refine AtRest.invariant_of_idle ⟨?_, h.errHasCode, h.roundZero hnot, h.halvesZero hnot, fun _ => ⟨s.key, rfl⟩,
      ?_⟩ rfl
    · simp [herr]
    · simp

theorem EngineInvariant.after_initialStep (hphase : s.phase = .initial) : EngineInvariant (initialStep s) := by
  have hbusy : s.phase ≠ .idle := by simp [hphase]
  obtain ⟨hverdict, hruns⟩ := h.runs hbusy hdecode
  rw [hphase] at hruns
  obtain rfl := hruns
  have hskValid : s.skValid = false := h.skValid_eq_false hbusy (by simp [hphase])
  refine DuringRounds.invariant ⟨.inl rfl, h.busyFlags hbusy, h.errCode_eq_none hbusy,
    Latched.of_next_phase rfl rfl rfl hdecode hverdict rfl, fun hfinal => ?_, hskValid, h.scheduleOfKey (.inl hphase),
    fun _ _ => ?_⟩
  · cases hfinal
  · rw [show roundsDone (initialStep s) = 0 from rfl, List.take_zero]
    rfl

end

/-! ### The rounds (45_feistel_driver.md R235, R244) -/

/-- Before round n the rounds done are n; the round that follows takes the next subkey of the schedule. -/
theorem take_succ_keySchedule (k : Block) (n : BitVec 4) :
    (keySchedule k).toList.take (n.toNat + 1) =
      (keySchedule k).toList.take n.toNat ++ [(keySchedule k)[n.toNat]'n.isLt] := by
  have hn : n.toNat < (keySchedule k).toList.length := by
    rw [keySchedule_length]
    exact n.isLt
  rw [List.take_succ_eq_append_getElem hn, Vector.getElem_toList]

theorem roundsDone_advanceRound (x : Halves) {s : State} (hphase : s.phase = .round) :
    roundsDone (advanceRound x s) = s.rIdx.toNat + 1 := by
  have hlt : s.rIdx.toNat < 16 := s.rIdx.isLt
  by_cases hmore : s.rIdx.toNat < 15
  · simp only [roundsDone, advanceRound_phase, advanceRound_rIdx, if_pos hmore, hphase, reduceCtorEq, if_false]
    rw [BitVec.toNat_add]
    exact Nat.mod_eq_of_lt (show s.rIdx.toNat + 1 < 16 by omega)
  · simp only [roundsDone, advanceRound_phase, if_neg hmore, if_true]
    omega

theorem inRounds_advanceRound (x : Halves) {s : State} (hphase : s.phase = .round) : inRounds (advanceRound x s) := by
  simp only [inRounds, advanceRound_phase, hphase]
  split_ifs <;> simp

theorem rIdx_advanceRound_of_finalSwap (x : Halves) {s : State} (hphase : s.phase = .round)
    (hfinal : (advanceRound x s).phase = .finalSwap) : (advanceRound x s).rIdx = 15 := by
  have hlt : s.rIdx.toNat < 16 := s.rIdx.isLt
  have hlast : ¬ s.rIdx.toNat < 15 := fun hmore => by
    rw [advanceRound_phase, if_pos hmore, hphase] at hfinal
    cases hfinal
  rw [advanceRound_rIdx, if_neg hlast]
  exact BitVec.eq_of_toNat_eq (show s.rIdx.toNat = 15 by omega)

section
variable {s : State} (h : EngineInvariant s) (hphase : s.phase = .round) (hs : valid48 (primaryTriple s))
  (hm : mix32Domain (siteTriple Config.segpWired s))
include h hphase

/-- The Round step takes the halves after the rounds done to those after one more. -/
theorem EngineInvariant.halvesFollow_advanceRound :
    HalvesFollow (advanceRound
      (feistelRound (currentSubkey s) (primaryTriple s) (siteTriple Config.segpWired s) hs hm ⟨s.l, s.r⟩) s) := by
  intro _ _
  have hschedule : s.sk = keySchedule s.key := h.scheduleOfKey (.inr (.inl hphase))
  have hsubkey : currentSubkey s = (keySchedule s.key)[s.rIdx.toNat]'s.rIdx.isLt := by
    simp only [currentSubkey, hschedule]
  have hhalves := h.halvesFollow (.inl hphase) hs hm
  rw [show roundsDone s = s.rIdx.toNat by simp [roundsDone, hphase]] at hhalves
  rw [roundsDone_advanceRound _ hphase, advanceRound_key, take_succ_keySchedule, feistelRounds_append, hhalves, hsubkey]
  rfl

theorem EngineInvariant.after_advanceRound {i : Instr} (hdecode : decode s.op = .ok i) :
    EngineInvariant (advanceRound
      (feistelRound (currentSubkey s) (primaryTriple s) (siteTriple Config.segpWired s) hs hm ⟨s.l, s.r⟩) s) := by
  have hbusy : s.phase ≠ .idle := by simp [hphase]
  have hfollow := h.halvesFollow_advanceRound hphase hs hm
  obtain ⟨hverdict, hruns⟩ := h.runs hbusy hdecode
  rw [hphase] at hruns
  obtain rfl := hruns
  generalize feistelRound (currentSubkey s) (primaryTriple s) (siteTriple Config.segpWired s) hs hm ⟨s.l, s.r⟩ = x
    at hfollow ⊢
  have hrounds : inRounds (advanceRound x s) := inRounds_advanceRound x hphase
  have hruns : runsIn .encrypt (advanceRound x s).phase := by
    obtain hp | hp := hrounds <;> rw [hp] <;> rfl
  exact DuringRounds.invariant ⟨hrounds, h.busyFlags hbusy, h.errCode_eq_none hbusy,
    Latched.of_next_phase rfl rfl rfl hdecode hverdict hruns, rIdx_advanceRound_of_finalSwap x hphase,
    h.skValid_eq_false hbusy (by simp [hphase]), h.scheduleOfKey (.inr (.inl hphase)), hfollow⟩

end

theorem EngineInvariant.after_finalSwapStep {s : State} (h : EngineInvariant s) (hphase : s.phase = .finalSwap) :
    EngineInvariant (finalSwapStep s) := by
  have hbusy : s.phase ≠ .idle := by simp [hphase]
  obtain ⟨-, herr⟩ := h.busyFlags hbusy
  have hskValid : s.skValid = false := h.skValid_eq_false hbusy (by simp [hphase])
  refine AtRest.invariant_of_idle ⟨?_, h.errHasCode, rfl, ⟨rfl, rfl⟩, ?_, fun _ => rfl⟩ rfl
  · simp [herr]
  · simp [hskValid]

/-! ### The Exec steps (46_control_and_host_access.md R265, R266) -/

/-- Completion changes nothing at rest but DONE, and ERR is 0 while busy. -/
theorem EngineInvariant.after_deliver {s : State} (h : EngineInvariant s) (hphase : s.phase = .exec) (v : Block) :
    EngineInvariant (deliver v s) := by
  obtain ⟨-, herr⟩ := h.busyFlags (by simp [hphase])
  obtain ⟨-, hcode, hround, hhalves, hvalid, hzero⟩ := h.atRest (.inr hphase)
  refine AtRest.invariant_of_idle ⟨?_, hcode, hround, hhalves, hvalid, hzero⟩ rfl
  simp [herr]

theorem clearStep_eq_resetEvent (s : State) : clearStep s = resetEvent s := rfl

theorem resetEvent_invariant (s : State) : EngineInvariant (resetEvent s) :=
  (atRest_resetEvent s).invariant_of_idle rfl

/-- Every turn of the engine that answers a next state keeps the invariant. -/
theorem EngineInvariant.after_engineTurn {s t : State} (h : EngineInvariant s) (hturn : engineTurn s = .next t) :
    EngineInvariant t := by
  obtain ⟨-, rfl⟩ | ⟨i, hdecode, hstep⟩ := engineTurn_cases hturn
  · exact h
  obtain ⟨hp, rfl⟩ | ⟨hp, rfl⟩ | ⟨hp, hs, hm, rfl⟩ | ⟨hp, rfl⟩ | ⟨hp, ⟨-, rfl⟩ | ⟨-, v, rfl⟩⟩ := hstep
  · exact h.after_keySchedStep hdecode hp
  · exact h.after_initialStep hdecode hp
  · exact h.after_advanceRound hp hs hm hdecode
  · exact h.after_finalSwapStep hp
  · exact clearStep_eq_resetEvent s ▸ resetEvent_invariant s
  · exact h.after_deliver hp v

/-- Settles O51, event by event. -/
theorem everyStepKeepsTheInvariant : Obligations.EveryStepKeepsTheInvariant := by
  intro s t h hstep
  obtain ⟨-, hturn⟩ | ⟨e, rest, -, hevent⟩ := step_cases hstep
  · exact h.after_engineTurn hturn
  have hrest : EngineInvariant { s with inputs := rest } := h.host rest s.responses s.busyErr
  obtain ⟨-, hturn⟩ | ⟨-, rfl⟩ | ⟨off, -, rfl⟩ | ⟨off, v, -, hwrite⟩ := hevent
  · exact hrest.after_engineTurn hturn
  · exact resetEvent_invariant _
  · exact hrest.after_regRead off
  · exact hrest.after_regWrite hwrite

/-! ### Progress -/

/-- In phase Exec a command that has an Exec step and whose checks hold answers a next state: its operands are in the
domain of its function. -/
theorem execStepOf_progress {i : Instr} {s : State} (hencrypt : i ≠ .encrypt) (hksched : i ≠ .ksched)
    (hverdict : verdict i s = none) : ∃ t, execStepOf i s = .next t := by
  cases i with
  | encrypt => exact absurd rfl hencrypt
  | ksched => exact absurd rfl hksched
  | getbit p wd => exact ⟨_, getbitStep_of_ok (checkBitPosition_eq_none.mp hverdict)⟩
  | setbit p wd v => exact ⟨_, setbitStep_of_ok (checkBitPosition_eq_none.mp hverdict)⟩
  | mix48Seg => exact ⟨_, mix48Step_of_valid (checkMix48_eq_none.mp hverdict)⟩
  | mix48Segp => exact ⟨_, mix48Step_of_valid (checkMix48_eq_none.mp hverdict)⟩
  | mix32Seg => exact ⟨_, mix32Step_of_domain (checkMix32_eq_none.mp hverdict)⟩
  | mix32Segp => exact ⟨_, mix32Step_of_domain (checkMix32_eq_none.mp hverdict)⟩
  | nop | clear | permuteIp | permuteFp | permutePc1 | permutePc2 | expand | subst | sperm => exact ⟨_, rfl⟩

/-- A command whose checks hold makes its transition in each of its phases. -/
theorem exec_progress {i : Instr} {s : State} (hverdict : verdict i s = none) (hruns : runsIn i s.phase) :
    ∃ t, exec i s = .next t := by
  rw [exec_eq_transact]
  cases hphase : s.phase with
  | idle => rw [hphase] at hruns; exact hruns.elim
  | keySched => exact ⟨_, transact_keySched hphase⟩
  | initial => exact ⟨_, transact_initial hphase⟩
  | round =>
    rw [hphase] at hruns
    obtain rfl := hruns
    obtain ⟨hs, -, -⟩ := checkEncrypt_eq_none.mp hverdict
    exact ⟨_, (transact_round hphase).trans (roundStep_of_valid hs (siteTriple_mix32Domain hverdict))⟩
  | finalSwap => exact ⟨_, transact_finalSwap hphase⟩
  | exec =>
    rw [hphase] at hruns
    obtain ⟨hencrypt, hksched⟩ := hruns
    rw [transact_exec hphase]
    exact execStepOf_progress hencrypt hksched hverdict

theorem EngineInvariant.engineTurn_progress {s : State} (h : EngineInvariant s) : ∃ t, engineTurn s = .next t := by
  by_cases hidle : s.phase = .idle
  · exact ⟨s, engineTurn_idle hidle⟩
  · obtain ⟨i, hdecode, hverdict, hruns⟩ := h.latched hidle
    rw [engineTurn_busy hidle hdecode]
    exact exec_progress hverdict hruns

/-- Every write answers a next state. -/
theorem regWrite_progress (off : Nat) (v : Word) (s : State) : ∃ t, regWrite off v s = .next t := by
  cases hreg : regAt off with
  | none => exact ⟨respond .error s, by simp only [regWrite, hreg]⟩
  | some r =>
    simp only [regWrite, hreg]
    obtain ⟨-, hw⟩ | ⟨-, -, hw⟩ | ⟨-, hidle, hw⟩ | ⟨-, -, -, hw⟩ := regWriteValid_eq r v (respond .ok s)
    · exact ⟨_, hw⟩
    · exact ⟨_, hw⟩
    · cases hdecode : decode v with
      | error e => exact ⟨_, hw.trans (commandWrite_of_error hdecode _)⟩
      | ok i =>
        rw [hw, commandWrite, hdecode]
        exact ⟨_, (exec_eq_transact i _).trans (transact_idle hidle)⟩
    · exact ⟨_, hw⟩

/-- Settles O52: reads, writes and resets always answer; the engine's turn does because a latched command's checks hold. -/
theorem noStepStops : Obligations.NoStepStops := by
  intro s h
  unfold StepsOn step
  cases hinputs : s.inputs with
  | nil =>
    rw [nextEvent_nil hinputs]
    exact h.engineTurn_progress
  | cons e rest =>
    rw [nextEvent_cons hinputs]
    cases e with
    | hostRead off => exact ⟨_, rfl⟩
    | hostWrite off v => exact regWrite_progress off v _
    | engine => exact (h.host rest s.responses s.busyErr).engineTurn_progress
    | reset => exact ⟨_, rfl⟩

end Sys2Proof.Safety
end

section
/-! Table-driven permutations (spec/41_permutation.md R140, R144) and the key schedule (spec/44_key_schedule.md R211 to R214,
R217). A word is given by its source bits, so each law is about where a table, a rotation or a slice takes a bit from. -/

namespace Sys2Proof.Machine

open Sys2Proof.Claims (sourceBit totalRotations rotatedKeyPosition)

/-! ### Words given by their source bits (00_scope.md R10) -/

/-- Words that agree at every position are equal. -/
theorem eq_of_sourceBit_eq {W : Nat} {x y : BitVec W} (h : ∀ i : Fin W, sourceBit x (i + 1) = sourceBit y (i + 1)) :
    x = y := by
  refine BitVec.eq_of_getLsbD_eq fun j hj => ?_
  have hbit := h ⟨W - 1 - j, by omega⟩
  rwa [sourceBit, sourceBit, show W - (W - 1 - j + 1) = j by omega] at hbit

theorem sourceBit_xor {W : Nat} (a b : BitVec W) (p : Nat) :
    sourceBit (a ^^^ b) p = (sourceBit a p ^^ sourceBit b p) :=
  BitVec.getLsbD_xor

theorem sourceBit_not {W p : Nat} (x : BitVec W) (hp : inWord W p) : sourceBit (~~~x) p = !sourceBit x p := by
  obtain ⟨hpos, hle⟩ := hp
  rw [sourceBit, BitVec.getLsbD_not, decide_eq_true (by omega), Bool.true_and, sourceBit]

/-! ### The laws of permutations (41_permutation.md R140, R144) -/

theorem permute_xor {win n : Nat} (a b : BitVec win) (t : PermTable win n) :
    permute (a ^^^ b) t = permute a t ^^^ permute b t :=
  eq_of_sourceBit_eq fun i => by
    rw [sourceBit_xor, sourceBit_permute, sourceBit_permute, sourceBit_permute, sourceBit_xor]

theorem permute_zero {win n : Nat} (t : PermTable win n) : permute (0 : BitVec win) t = 0 :=
  eq_of_sourceBit_eq fun i => by
    rw [sourceBit_permute]
    simp [sourceBit]

theorem permute_not {win n : Nat} (x : BitVec win) (t : PermTable win n) : permute (~~~x) t = ~~~permute x t :=
  eq_of_sourceBit_eq fun i => by
    rw [sourceBit_permute, sourceBit_not _ (t.entry_inWord i), sourceBit_not _ ⟨Nat.succ_pos _, i.isLt⟩,
      sourceBit_permute]

/-- Settles O39: each output bit is an input bit. -/
theorem permuteIsLinear : Obligations.PermuteIsLinear := fun _ _ a b t => ⟨permute_xor a b t, permute_zero t⟩

/-- Two permutations in a row are the identity when the second table's entries point at the positions where the first table
has put each bit. -/
theorem permute_permute_of_inverse {W : Nat} (t u : PermTable W W)
    (hinverse : ∀ i : Fin W, t.entries.getD (u.entries.getD i 0 - 1) 0 = i + 1) (x : BitVec W) :
    permute (permute x t) u = x := by
  refine eq_of_sourceBit_eq fun i => ?_
  obtain ⟨hpos, hle⟩ := u.entry_inWord i
  have hposition : u.entry i = (⟨u.entry i - 1, by omega⟩ : Fin W) + 1 := by
    simp only
    omega
  have hback := hinverse i
  rw [PermTable.getD_entries, t.getD_entries ⟨u.entry i - 1, by omega⟩] at hback
  rw [sourceBit_permute, hposition, sourceBit_permute, hback]

theorem tableFP_inverts_tableIP : ∀ i : Fin 64, tableIP.entries.getD (tableFP.entries.getD i 0 - 1) 0 = i + 1 := by
  decide

theorem tableIP_inverts_tableFP : ∀ i : Fin 64, tableFP.entries.getD (tableIP.entries.getD i 0 - 1) 0 = i + 1 := by
  decide

/-- Settles O38: the two tables invert each other, entry by entry. -/
theorem finalUndoesInitial : Obligations.FinalUndoesInitial := fun x =>
  ⟨permute_permute_of_inverse tableIP tableFP tableFP_inverts_tableIP x,
    permute_permute_of_inverse tableFP tableIP tableIP_inverts_tableFP x⟩

/-! ### Rotations of a key half (44_key_schedule.md R213) -/

/-- The position that a rotation by n brings to position p. -/
def rotatedPosition (n p : Nat) : Nat := (p - 1 + n) % 28 + 1

theorem inWord_rotatedPosition (n p : Nat) : inWord 28 (rotatedPosition n p) :=
  ⟨Nat.succ_pos _, Nat.mod_lt _ (by decide)⟩

theorem rotatedPosition_rotatedPosition (a b p : Nat) :
    rotatedPosition a (rotatedPosition b p) = rotatedPosition (a + b) p := by
  unfold rotatedPosition
  omega

theorem sourceBit_rol28 (x : KeyHalf) {n p : Nat} (hn : n ≤ 28) (hp : inWord 28 p) :
    sourceBit (rol28 x n) p = sourceBit x (rotatedPosition n p) := by
  obtain ⟨hpos, hle⟩ := hp
  rw [sourceBit, rol28, BitVec.getLsbD_or, BitVec.getLsbD_shiftLeft, BitVec.getLsbD_ushiftRight, sourceBit,
    rotatedPosition, decide_eq_true (by omega), Bool.true_and]
  by_cases hwrap : p + n ≤ 28
  · rw [decide_eq_false (by omega), Bool.not_false, Bool.true_and, BitVec.getLsbD_of_ge x
      (28 - n + (28 - p)) (by omega), Bool.or_false]
    congr 1
    omega
  · rw [decide_eq_true (by omega), Bool.not_true, Bool.false_and, Bool.false_or]
    congr 1
    omega

/-- The half y is the half x rotated by n in all. -/
def RotatedBy (n : Nat) (x y : KeyHalf) : Prop := ∀ p, inWord 28 p → sourceBit y p = sourceBit x (rotatedPosition n p)

theorem rotatedBy_zero (x : KeyHalf) : RotatedBy 0 x x := by
  intro p hp
  have hsame : rotatedPosition 0 p = p := by
    unfold rotatedPosition
    omega
  rw [hsame]

theorem RotatedBy.rol28 {a n : Nat} {x y : KeyHalf} (h : RotatedBy a x y) (hn : n ≤ 28) :
    RotatedBy (a + n) x (rol28 y n) := by
  intro p hp
  rw [sourceBit_rol28 y hn hp, h _ (inWord_rotatedPosition n p), rotatedPosition_rotatedPosition]

/-! ### The subkeys (44_key_schedule.md R214) -/

/-- The subkey of index j is made by PC2 of the two halves, each rotated by the counts up to j. -/
theorem subkeysFrom_getElem {a : Nat} {c₀ d₀ c d : KeyHalf} {ns : List Nat} (hns : ∀ n ∈ ns, n ≤ 28)
    (hc : RotatedBy a c₀ c) (hd : RotatedBy a d₀ d) {j : Nat} (hj : j < (subkeysFrom c d ns).length) :
    ∃ c' d', RotatedBy (a + (ns.take (j + 1)).sum) c₀ c' ∧ RotatedBy (a + (ns.take (j + 1)).sum) d₀ d' ∧
      (subkeysFrom c d ns)[j] = permute (c' ++ d' : KeyBits) tablePC2 := by
  induction ns generalizing a c d j with
  | nil => simp [subkeysFrom] at hj
  | cons n rest ih =>
    have hn : n ≤ 28 := hns n List.mem_cons_self
    cases j with
    | zero => exact ⟨_, _, by simpa using hc.rol28 hn, by simpa using hd.rol28 hn, rfl⟩
    | succ j =>
      have hj' : j < (subkeysFrom (rol28 c n) (rol28 d n) rest).length := by simpa [subkeysFrom] using hj
      have hsum : a + ((n :: rest).take (j + 1 + 1)).sum = a + n + (rest.take (j + 1)).sum := by
        rw [List.take_succ_cons, List.sum_cons, Nat.add_assoc]
      rw [hsum]
      exact ih (fun m hm => hns m (List.mem_cons_of_mem _ hm)) (hc.rol28 hn) (hd.rol28 hn) hj'

theorem totalRotations_getD : ∀ n : Fin 16, (rotations.take (n + 1)).sum = totalRotations.getD n 0 := by
  decide

/-- A bit of a half of PC1 of the key. -/
theorem sourceBit_half_permute_tablePC1 (k : Block) {skip p : Nat} (hskip : skip + 28 ≤ 56) (hp : inWord 28 p) :
    sourceBit (sourceSlice (permute k tablePC1) skip 28) p =
      sourceBit k (tablePC1.entries.getD (skip + (p - 1)) 0) := by
  obtain ⟨hpos, hle⟩ := hp
  have hbit := sourceBit_permute k tablePC1 ⟨skip + (p - 1), by omega⟩
  rw [← PermTable.getD_entries] at hbit
  rw [sourceBit_sourceSlice _ hskip ⟨hpos, hle⟩, ← hbit]
  congr 1
  simp only
  omega

/-- A bit of the two halves of the key side by side, each rotated by n, is the key bit at the rotated position. -/
theorem sourceBit_rotated_halves (k : Block) {n q : Nat} {c d : KeyHalf} (hc : RotatedBy n (keyHalfC k) c)
    (hd : RotatedBy n (keyHalfD k) d) (hq : inWord 56 q) :
    sourceBit (c ++ d : KeyBits) q = sourceBit k (rotatedKeyPosition n q) := by
  obtain ⟨hpos, hle⟩ := hq
  rw [sourceBit_append c d ⟨hpos, hle⟩, rotatedKeyPosition]
  split_ifs with hfirst
  · rw [hc q ⟨hpos, hfirst⟩, keyHalfC, sourceBit_half_permute_tablePC1 k (by decide) (inWord_rotatedPosition n q),
      rotatedPosition, Nat.add_sub_cancel, Nat.zero_add]
  · have hp : inWord 28 (q - 28) := ⟨by omega, by omega⟩
    rw [hd (q - 28) hp, keyHalfD, sourceBit_half_permute_tablePC1 k (by decide) (inWord_rotatedPosition n _),
      rotatedPosition, Nat.add_sub_cancel, Nat.sub_sub]

/-- Settles O36: PC2 of the two halves of PC1, each rotated by the counts up to the round. -/
theorem keyScheduleBitByBit : Obligations.KeyScheduleBitByBit := by
  intro k n i
  have hcounts : ∀ m ∈ rotations, m ≤ 28 := by decide
  have hn : n.val < (subkeysFrom (keyHalfC k) (keyHalfD k) rotations).length := by
    rw [subkeysFrom_length]
    exact n.isLt
  obtain ⟨c, d, hc, hd, hsubkey⟩ := subkeysFrom_getElem hcounts (rotatedBy_zero (keyHalfC k)) (rotatedBy_zero _) hn
  rw [Nat.zero_add, totalRotations_getD] at hc hd
  change sourceBit ((subkeysFrom (keyHalfC k) (keyHalfD k) rotations)[n.val]) (i + 1) = _
  rw [hsubkey, sourceBit_permute, sourceBit_rotated_halves k hc hd (tablePC2.entry_inWord i), PermTable.getD_entries]

/-! ### The key bits that the schedule reads (44_key_schedule.md R217) -/

theorem tablePC1_skips_parity : ∀ j : Fin 56,
    1 ≤ tablePC1.entries.getD j 0 ∧ tablePC1.entries.getD j 0 ≤ 64 ∧ tablePC1.entries.getD j 0 % 8 ≠ 0 := by
  decide

/-- The schedule reads positions of the key that are not multiples of 8. -/
theorem rotatedKeyPosition_range (n q : Nat) :
    1 ≤ rotatedKeyPosition n q ∧ rotatedKeyPosition n q ≤ 64 ∧ rotatedKeyPosition n q % 8 ≠ 0 := by
  unfold rotatedKeyPosition
  split_ifs
  · exact tablePC1_skips_parity ⟨(q - 1 + n) % 28, by omega⟩
  · exact tablePC1_skips_parity ⟨28 + (q - 29 + n) % 28, by omega⟩

/-- Settles O37: every bit of every subkey is a key bit at a position that is not a multiple of 8. -/
theorem parityBitsAreUnused : Obligations.ParityBitsAreUnused := by
  intro k k' hagree
  refine Vector.ext fun n hn => eq_of_sourceBit_eq fun i => ?_
  have hbit (key : Block) := keyScheduleBitByBit key ⟨n, hn⟩ i
  obtain ⟨hpos, hle, hparity⟩ :=
    rotatedKeyPosition_range (totalRotations.getD n 0) (tablePC2.entries.getD i 0)
  exact (hbit k).trans ((hagree _ hpos hle hparity).trans (hbit k').symm)

end Sys2Proof.Machine
end

section
/-! The segmented mixing (spec/43_xo_mixing.md R184 to R187, R192, R193) and the cipher (spec/45_feistel_driver.md R235,
R241; spec/95_test_vectors.md V2). The combine is exclusive-or whatever the partition, so the mixing commands and the Round step
give it, and the cipher is the network with plain exclusive-or. -/

namespace Sys2Proof.Machine

open Sys2Proof.Claims (sourceBit completedWith lowXor lengthSum isSingleSegment encryptAllowed plainRounds plainEncrypt
  totalRotations)

/-! ### The combine (43_xo_mixing.md R187) -/

/-- A bit of a segment is the exclusive-or of the two bits that the segment covers there. -/
theorem sourceBit_segmentXor {W skip len p : Nat} (a b : BitVec W) (hfit : skip + len ≤ W) (hp : inWord len p) :
    sourceBit (segmentXor a b skip len) p = (sourceBit a (skip + p) ^^ sourceBit b (skip + p)) := by
  rw [segmentXor, sourceBit_xor, sourceBit_sourceSlice a hfit hp, sourceBit_sourceSlice b hfit hp]

theorem sourceBit_cast {m n : Nat} (h : m = n) (x : BitVec m) (p : Nat) : sourceBit (x.cast h) p = sourceBit x p := by
  subst h
  rfl

/-- The three segments cover every position once. -/
theorem mixW_eq_xor {W : Nat} (a b : BitVec W) {t : Triple} (h : isPartition W t) : mixW a b t h = a ^^^ b := by
  obtain ⟨htop, hmiddle, hbottom, hsum⟩ := h
  refine eq_of_sourceBit_eq fun i => ?_
  have hi : i.val < W := i.isLt
  rw [mixW, sourceBit_cast, sourceBit_append _ _ (by omega), sourceBit_xor]
  split_ifs with hfirstTwo
  · rw [sourceBit_append _ _ (by omega)]
    split_ifs with hfirst
    · rw [sourceBit_segmentXor a b (by omega) (by omega), Nat.zero_add]
    · rw [sourceBit_segmentXor a b (by omega) (by omega), Nat.add_sub_cancel' (by omega)]
  · rw [sourceBit_segmentXor a b (by omega) (by omega), Nat.add_sub_cancel' (by omega)]

theorem mix48_eq_xor (a b : Expanded) {t : Triple} (h : valid48 t) : mix48 a b t h = a ^^^ b :=
  mixW_eq_xor a b h

theorem mix32_eq_xor (a b : Half) {t : Triple} (h : mix32Domain t) : mix32 a b t h = a ^^^ b :=
  mixW_eq_xor a b (scale32_isPartition h)

/-- Settles O41: the laws of exclusive-or. -/
theorem segmentedMixIsXor : Obligations.SegmentedMixIsXor := by
  intro W a b t h
  rw [mixW_eq_xor, mixW_eq_xor, mixW_eq_xor]
  exact ⟨rfl, BitVec.xor_comm a b, by rw [BitVec.xor_assoc, BitVec.xor_self, BitVec.xor_zero]⟩

/-! ### The scaling (43_xo_mixing.md R184, R185) -/

/-- Settles O42: the two branches of the scaling, and the only triple without one. -/
theorem scaledTripleGuarantees : Obligations.ScaledTripleGuarantees := by
  intro t hvalid
  have hsingle := not_seg32OK_iff hvalid
  obtain ⟨htop, hmiddle, hbottom, hsum⟩ := hvalid
  simp only [Config.segTotal48, Nat.cast_ofNat] at hsum
  refine ⟨?_, ?_, ?_, ?_, fun hlt => ?_, hsingle⟩ <;>
    simp only [scale32] <;> split_ifs <;> simp only <;> omega

/-! ### The mixing commands (43_xo_mixing.md R192, R193) -/

/-- The low bits of two registers mixed are the low bits of their exclusive-or. -/
theorem rightAligned_xor_rightWord {W : Nat} (hW : W ≤ 64) (a b : Block) :
    rightAligned (rightWord W a ^^^ rightWord W b) = lowXor W a b := by
  refine BitVec.eq_of_toNat_eq ?_
  have hslice : rightWord W a ^^^ rightWord W b = rightWord W (a ^^^ b) := by
    simp only [rightWord, BitVec.extractLsb'_xor]
  have hlt : (a ^^^ b).toNat % 2 ^ W < 2 ^ 64 := (Nat.mod_le _ _).trans_lt (a ^^^ b).isLt
  rw [hslice, rightAligned_toNat _ hW, lowXor, BitVec.toNat_ofNat, Nat.mod_eq_of_lt hlt, rightWord,
    BitVec.extractLsb'_toNat, Nat.shiftRight_zero]

section
variable {s : State} {i : Instr} {v : BitVec 24} (hphase : s.phase = .exec)
include hphase

/-- MIX48 with the triple of a register. -/
theorem exec_mix48_exec (hstep : execStepOf i s = mix48Step (tripleOf v) s) (hsum : lengthSum v = 48) :
    exec i s = .next (completedWith (lowXor 48 s.blk s.opb) s) := by
  refine exec_exec_of_deliver hphase ?_
  rw [hstep, mix48Step_of_valid (valid48_tripleOf.mpr hsum), mix48_eq_xor, rightAligned_xor_rightWord (by decide)]

/-- MIX32 with the triple of a register. -/
theorem exec_mix32_exec (hstep : execStepOf i s = mix32Step (tripleOf v) s) (hsum : lengthSum v = 48)
    (hsingle : ¬ isSingleSegment v) : exec i s = .next (completedWith (lowXor 32 s.blk s.opb) s) := by
  have hdomain : mix32Domain (tripleOf v) := ⟨valid48_tripleOf.mpr hsum, (seg32OK_tripleOf hsum).mpr hsingle⟩
  refine exec_exec_of_deliver hphase ?_
  rw [hstep, mix32Step_of_domain hdomain, mix32_eq_xor, rightAligned_xor_rightWord (by decide)]

end

/-- Settles O30, for the triple of either register. -/
theorem mixFortyEightIsXor : Obligations.MixFortyEightIsXor :=
  fun _ hphase => ⟨exec_mix48_exec hphase rfl, exec_mix48_exec hphase rfl⟩

/-- Settles O31, for the triple of either register. -/
theorem mixThirtyTwoIsXor : Obligations.MixThirtyTwoIsXor :=
  fun _ hphase => ⟨exec_mix32_exec hphase rfl, exec_mix32_exec hphase rfl⟩

/-! ### One round (45_feistel_driver.md R235) -/

/-- One round with plain exclusive-or, on the halves of R235. -/
def plainRound (k : Subkey) (x : Half × Half) : Half × Half :=
  (x.2, x.1 ^^^ straight (substitute (expand x.2 ^^^ k)))

theorem plainRounds_cons (k : Subkey) (ks : List Subkey) (x : Half × Half) :
    plainRounds (k :: ks) x = plainRounds ks (plainRound k x) := rfl

/-- The round function with its mixing as exclusive-or (45_feistel_driver.md R239). -/
theorem fround_eq (rh : Half) (k : Subkey) {s : Triple} (hs : valid48 s) :
    fround rh k s hs = straight (substitute (expand rh ^^^ k)) := by
  rw [fround, mix48_eq_xor]

/-- A round with both mixing sites on their triples is the plain round. -/
theorem feistelRound_eq_plainRound (k : Subkey) {s m : Triple} (hs : valid48 s) (hm : mix32Domain m) (x : Halves) :
    feistelRound k s m hs hm x = ⟨(plainRound k (x.l, x.r)).1, (plainRound k (x.l, x.r)).2⟩ := by
  rw [feistelRound, mix32_eq_xor, fround_eq, plainRound]

/-- The Round step of an ENCRYPT whose checks passed is the plain round under SK[r]. -/
theorem exec_encrypt_round_plain {s : State} (hphase : s.phase = .round) (hallowed : encryptAllowed s) :
    exec .encrypt s = .next (advanceRound
      ⟨(plainRound (currentSubkey s) (s.l, s.r)).1, (plainRound (currentSubkey s) (s.l, s.r)).2⟩ s) := by
  have hcheck : checkEncrypt Config.segpWired s = none := verdict_encrypt_eq_none_iff.mpr hallowed
  obtain ⟨hvalid, -, -⟩ := checkEncrypt_eq_none.mp hcheck
  rw [exec_eq_transact, transact_round hphase, roundStep_of_valid hvalid (siteTriple_mix32Domain hcheck),
    feistelRound_eq_plainRound]

/-- Settles O34: the plain round, then the next r or FinalSwap. -/
theorem roundStepIsTheFeistelRound : Obligations.RoundStepIsTheFeistelRound := by
  intro s hphase hallowed
  rw [exec_encrypt_round_plain hphase hallowed, advanceRound, hphase]
  rfl

/-! ### The cipher (45_feistel_driver.md R241) -/

theorem feistelRounds_eq_plainRounds {s m : Triple} (hs : valid48 s) (hm : mix32Domain m) (ks : List Subkey)
    (x : Halves) :
    feistelRounds s m hs hm ks x = ⟨(plainRounds ks (x.l, x.r)).1, (plainRounds ks (x.l, x.r)).2⟩ := by
  induction ks generalizing x with
  | nil => rfl
  | cons k rest ih => rw [feistelRounds, ih, feistelRound_eq_plainRound, plainRounds_cons]

/-- Settles O43, round by round. -/
theorem cipherIsThePlainNetwork : Obligations.CipherIsThePlainNetwork := by
  intro pt k s m hs hm
  rw [encrypt, feistelRounds_eq_plainRounds]
  rfl

/-! ### Complementation (95_test_vectors.md V2) -/

theorem keySchedule_not (k : Block) : (keySchedule (~~~k)).toList = (keySchedule k).toList.map (~~~·) := by
  have hmap : keySchedule (~~~k) = (keySchedule k).map (~~~·) := by
    refine Vector.ext fun n hn => eq_of_sourceBit_eq fun i => ?_
    obtain ⟨hpos, hle, -⟩ := rotatedKeyPosition_range (totalRotations.getD n 0) (tablePC2.entries.getD i 0)
    have hbit (key : Block) := keyScheduleBitByBit key ⟨n, hn⟩ i
    rw [Vector.getElem_map, sourceBit_not _ ⟨Nat.succ_pos _, i.isLt⟩]
    refine (hbit (~~~k)).trans ?_
    rw [sourceBit_not k ⟨hpos, hle⟩]
    exact congrArg (! ·) (hbit k).symm
  rw [hmap, Vector.toList_map]

/-- Complementing the halves and the subkey complements the new halves: at the first site the complements cancel, at the
second one of them stays. -/
theorem plainRound_not (k : Subkey) (x : Half × Half) :
    plainRound (~~~k) (~~~x.1, ~~~x.2) = (~~~(plainRound k x).1, ~~~(plainRound k x).2) := by
  have hfirst : expand (~~~x.2) ^^^ ~~~k = expand x.2 ^^^ k := by
    rw [expand, permute_not, ← BitVec.not_xor_left, ← BitVec.not_xor_right, BitVec.not_not, expand]
  have hsecond (y : Half) : ~~~x.1 ^^^ y = ~~~(x.1 ^^^ y) := BitVec.not_xor_left.symm
  simp only [plainRound, hfirst, hsecond]

theorem plainRounds_not (ks : List Subkey) (x : Half × Half) :
    plainRounds (ks.map (~~~·)) (~~~x.1, ~~~x.2) = (~~~(plainRounds ks x).1, ~~~(plainRounds ks x).2) := by
  induction ks generalizing x with
  | nil => rfl
  | cons k rest ih => rw [List.map_cons, plainRounds_cons, plainRound_not, ih, plainRounds_cons]

theorem sourceSlice_not {W skip len : Nat} (x : BitVec W) (hfit : skip + len ≤ W) :
    sourceSlice (~~~x) skip len = ~~~sourceSlice x skip len :=
  eq_of_sourceBit_eq fun i => by
    have hi : inWord len (i + 1) := ⟨Nat.succ_pos _, i.isLt⟩
    rw [sourceBit_sourceSlice _ hfit hi, sourceBit_not _ hi, sourceBit_sourceSlice _ hfit hi,
      sourceBit_not _ (by omega)]

theorem initialHalves_not (pt : Block) :
    initialHalves (~~~pt) = ⟨~~~(initialHalves pt).l, ~~~(initialHalves pt).r⟩ := by
  simp only [initialHalves, permute_not]
  rw [sourceSlice_not _ (by decide), sourceSlice_not _ (by decide)]

theorem finalBlock_not (x : Halves) : finalBlock ⟨~~~x.l, ~~~x.r⟩ = ~~~finalBlock x := by
  rw [finalBlock, finalBlock, ← permute_not, BitVec.not_append]

/-- Settles O44: the complement goes through the initial halves, the rounds and the final block. -/
theorem cipherComplements : Obligations.CipherComplements := by
  intro pt k s m hs hm
  rw [encrypt, encrypt, feistelRounds_eq_plainRounds, feistelRounds_eq_plainRounds, initialHalves_not,
    keySchedule_not, plainRounds_not _ ((initialHalves pt).l, (initialHalves pt).r)]
  exact finalBlock_not ⟨_, _⟩

end Sys2Proof.Machine
end

section
/-! The step as the transition of a command (spec/46_control_and_host_access.md R264 to R266), reset
(spec/70_reset_and_hazards.md R320, R321), and the write of KSCHED, CLEAR and ENCRYPT (spec/44_key_schedule.md R220,
spec/46_control_and_host_access.md R261, spec/45_feistel_driver.md R232). -/

namespace Sys2Proof.Machine

open Sys2Proof.Safety (verdict)
open Sys2Proof.Claims (answered afterEvent rejectedWith acceptedForSchedule encodedAs otherwiseIllegal lengthSum
  isSingleSegment encryptAllowed atCommandWrite)

/-! ### The step (46_control_and_host_access.md R264 to R266) -/

/-- Settles O7: a command write, a turn that is the next event, and a turn where no event is pending. -/
theorem stepRunsTheDecodedCommand : Obligations.StepRunsTheDecodedCommand :=
  fun _ _ => ⟨fun _ _ => step_commandWrite_of_ok, fun _ hbusy hinputs hdecode => step_engine_busy hbusy hdecode hinputs,
    fun hbusy hinputs hdecode => (nextEvent_nil hinputs).trans (engineTurn_busy hbusy hdecode)⟩

/-- All 32 bits of a word of the opcode table are the word. -/
theorem tableWord_toNat (w : Word) : tableWord 32 w.toNat = w := by
  rw [tableWord, Nat.mod_eq_of_lt w.isLt, BitVec.ofNat_toNat, BitVec.setWidth_eq]

/-- Settles O8: the state that withFetchWord gives is at the write of the word to CMD. -/
theorem fetchWordRunsNext : Obligations.FetchWordRunsNext := by
  intro s w i hdecode
  rw [State.withFetchWord, tableWord_toNat]
  exact step_commandWrite_of_ok (s := withCommand w s) ⟨rfl, withCommand_inputs w s⟩ hdecode

/-- Settles O9: the turn of an idle engine answers the state that it is given. -/
theorem idleEngineDoesNothing : Obligations.IdleEngineDoesNothing :=
  fun _ _ hidle => ⟨fun hinputs => (nextEvent_cons hinputs).trans (engineTurn_idle hidle),
    fun hinputs => (nextEvent_nil hinputs).trans (engineTurn_idle hidle)⟩

/-- Settles O11: the reset event does not look at the phase. -/
theorem resetFromAnyState : Obligations.ResetFromAnyState := fun _ _ hinputs => nextEvent_cons hinputs

/-- Settles O16: the case of STATUS in the dispatch of a write, busy or idle. -/
theorem statusWriteClearsBusyerr : Obligations.StatusWriteClearsBusyerr := by
  intro s v rest hinputs
  obtain ⟨-, hstatus⟩ := busyWritesAreDropped s 0x04 v rest hinputs
  exact hstatus rfl

/-! ### KSCHED (44_key_schedule.md R220) and CLEAR (46_control_and_host_access.md R261) -/

/-- Each command of operation code 1 to 3 is the only one with it. -/
theorem eq_of_fieldOpc_encode_control {i j : Instr} (hi : i ∈ [Instr.encrypt, .ksched, .clear])
    (hopc : fieldOpc (encode j) = fieldOpc (encode i)) : j = i := by
  fin_cases hi <;> cases j <;> simp_all [encode]

theorem otherwiseIllegal_control {i : Instr} (hi : i ∈ [Instr.encrypt, .ksched, .clear]) :
    otherwiseIllegal (fieldOpc (encode i)).toNat [encode i] :=
  otherwiseIllegal_singleton fun _ => eq_of_fieldOpc_encode_control hi

theorem exec_ksched_idle {s : State} (hidle : s.phase = .idle) :
    exec .ksched s = .next (acceptedForSchedule (encode .ksched) s) := by
  rw [exec_eq_transact, transact_idle hidle]
  rfl

/-- Settles O18: the word, the illegal words, the acceptance and the one step. -/
theorem kschedKeepsTheSchedule : Obligations.KschedKeepsTheSchedule := by
  refine ⟨encodedAs_encode rfl, otherwiseIllegal_control (i := .ksched) (by decide),
    fun _ => exec_ksched_idle, fun s hphase hop => ?_⟩
  have hother : s.op.toNat % 256 ≠ 1 := by
    rw [hop]
    decide
  rw [exec_keySched .ksched hphase, keySchedStep_of_opc_ne_encrypt hother]

theorem exec_clear_exec {s : State} (hphase : s.phase = .exec) : exec .clear s = .next (clearStep s) := by
  rw [exec_eq_transact, transact_exec hphase, execStepOf]

/-- Settles O23: the word, the illegal words, the acceptance and the Exec step, which is the reset of the elements. -/
theorem clearGivesTheResetState : Obligations.ClearGivesTheResetState :=
  ⟨encodedAs_encode rfl, otherwiseIllegal_control (i := .clear) (by decide),
    alwaysAccepted_encode (fun _ => rfl) (by decide) (by decide), fun _ => exec_clear_exec⟩

/-! ### The checks of ENCRYPT (45_feistel_driver.md R232) -/

/-- The first condition holds, so its code is reported (60_exceptions.md R290). -/
theorem firstFailing_of_fails {P : Prop} [Decidable P] {code : ErrCode} {rest : List (Bool × ErrCode)} (h : P) :
    firstFailing ((decide P, code) :: rest) = some code := by
  rw [firstFailing, decide_eq_true h, if_pos rfl]

/-- The first condition does not hold, so the others decide. -/
theorem firstFailing_of_passes {P : Prop} [Decidable P] {code : ErrCode} {rest : List (Bool × ErrCode)} (h : ¬ P) :
    firstFailing ((decide P, code) :: rest) = firstFailing rest := by
  rw [firstFailing, decide_eq_false h, if_neg Bool.false_ne_true]

section
variable {s : State}

theorem verdict_encrypt_of_seg (hseg : lengthSum s.seg ≠ 48) : verdict .encrypt s = some .invalidSeg :=
  firstFailing_of_fails (mt valid48_tripleOf.mp hseg)

theorem verdict_encrypt_of_segp (hseg : lengthSum s.seg = 48) (hsegp : lengthSum s.segp ≠ 48) :
    verdict .encrypt s = some .invalidSegp :=
  (firstFailing_of_passes (not_not.mpr (valid48_tripleOf.mpr hseg))).trans
    (firstFailing_of_fails (mt valid48_tripleOf.mp hsegp))

/-- SEGP_WIRED being 0, it is the primary triple that must scale. -/
theorem verdict_encrypt_of_single (hsegp : lengthSum s.segp = 48) (hsingle : isSingleSegment s.seg) :
    verdict .encrypt s = some .invalidSeg32 := by
  have hseg : lengthSum s.seg = 48 := lengthSum_of_isSingleSegment hsingle
  have hfails : ¬ seg32OK (siteTriple Config.segpWired s) := fun hok => (seg32OK_tripleOf hseg).mp hok hsingle
  exact (firstFailing_of_passes (not_not.mpr (valid48_tripleOf.mpr hseg))).trans
    ((firstFailing_of_passes (not_not.mpr (valid48_tripleOf.mpr hsegp))).trans (firstFailing_of_fails hfails))

end

/-- The write of a command that fails a check is its rejection. -/
theorem step_commandWrite_of_invalid {s : State} {w : Word} {rest : List Event} {i : Instr} {code : ErrCode}
    (hwrite : atCommandWrite w rest s) (hdecode : decode w = .ok i) (hinvalid : verdict i s = some code) :
    step s = .next (rejectedWith code (answered .ok rest s)) := by
  rw [step_commandWrite_of_ok hwrite hdecode]
  obtain ⟨hidle, -⟩ := hwrite
  exact exec_idle_of_invalid hidle ((Safety.verdict_congr i rfl rfl).trans hinvalid)

/-- Settles O21: the illegal words of the operation code, then the verdict by the first check that fails. -/
theorem encryptChecksInOrder : Obligations.EncryptChecksInOrder := by
  intro s w rest hopc hwrite
  have hillegal : otherwiseIllegal 0x01 [0x00000001] := otherwiseIllegal_control (i := .encrypt) (by decide)
  refine ⟨fun hw => hillegal w s rest hopc (mt List.mem_singleton.mp hw) hwrite, ?_⟩
  have hdecode (hw : w = 0x00000001) : decode w = .ok .encrypt := hw ▸ rfl
  refine ⟨fun hw hseg => ?_, fun hw hseg hsegp => ?_, fun hw hsegp hsingle => ?_, fun hw hallowed => ?_⟩
  · exact step_commandWrite_of_invalid hwrite (hdecode hw) (verdict_encrypt_of_seg hseg)
  · exact step_commandWrite_of_invalid hwrite (hdecode hw) (verdict_encrypt_of_segp hseg hsegp)
  · exact step_commandWrite_of_invalid hwrite (hdecode hw) (verdict_encrypt_of_single hsegp hsingle)
  · exact step_encrypt_write (hw ▸ hwrite) hallowed

end Sys2Proof.Machine
end

section
/-! What every step keeps (spec/10_state.md R21, R24; spec/20_memory.md R71; spec/60_exceptions.md R289;
spec/45_feistel_driver.md R240). For each of them, first what a host access can do, then what the engine's turn can do. -/

namespace Sys2Proof.Machine

open Sys2Proof.Claims (sameOperands atCommandWrite)

/-! ### The host's accesses -/

/-- A read gives an answer and changes nothing else. -/
theorem regRead_eq_respond (off : Nat) (s : State) : ∃ a, regRead off s = respond a s := by
  unfold regRead
  split
  · exact ⟨_, rfl⟩
  · exact ⟨_, rfl⟩

/-- A write while busy gives an answer and can change BUSYERR, and nothing else (20_memory.md R71). -/
theorem regWrite_busy {off : Nat} {v : Word} {s t : State} (hbusy : s.phase ≠ .idle) (h : regWrite off v s = .next t) :
    ∃ a b, t = { s with responses := a :: s.responses, busyErr := b } := by
  obtain ⟨-, rfl⟩ | ⟨-, rfl⟩ | ⟨-, rfl⟩ | ⟨hidle, -⟩ | ⟨hidle, -⟩ := regWrite_cases h
  · exact ⟨.error, s.busyErr, rfl⟩
  · exact ⟨.ok, _, rfl⟩
  · exact ⟨.ok, true, rfl⟩
  · exact absurd hidle hbusy
  · exact absurd hidle hbusy

/-! ### OUT (10_state.md R24) -/

theorem writeData_out (r : HostReg) (v : Word) (s : State) : (writeData r v s).out = s.out := by
  cases r <;> rfl

theorem regWrite_out {off : Nat} {v : Word} {s t : State} (h : regWrite off v s = .next t) : t.out = s.out := by
  obtain ⟨-, rfl⟩ | ⟨-, rfl⟩ | ⟨-, rfl⟩ | ⟨-, -, ⟨-, rfl⟩ | ⟨i, -, rfl⟩⟩ | ⟨-, r, -, -, -, rfl⟩ := regWrite_cases h
  · rfl
  · rfl
  · rfl
  · rfl
  · exact issue_out _ _ _
  · exact writeData_out _ _ _

/-- A turn that changes OUT is the last one of its command. -/
theorem engineTurn_out {s t : State} (h : engineTurn s = .next t) (hout : t.out ≠ s.out) :
    t.phase = .idle ∧ (s.phase = .exec ∨ s.phase = .finalSwap) := by
  obtain ⟨-, rfl⟩ | ⟨i, -, hstep⟩ := engineTurn_cases h
  · exact absurd rfl hout
  obtain ⟨-, rfl⟩ | ⟨-, rfl⟩ | ⟨-, _, _, rfl⟩ | ⟨hp, rfl⟩ | ⟨hp, ⟨-, rfl⟩ | ⟨-, v, rfl⟩⟩ := hstep
  · exact absurd (keySchedStep_out s) hout
  · exact absurd rfl hout
  · exact absurd rfl hout
  · exact ⟨rfl, .inr hp⟩
  · exact ⟨rfl, .inl hp⟩
  · exact ⟨rfl, .inl hp⟩

/-- Settles O53: only the engine's turn and a reset change OUT. -/
theorem outChangesOnlyAtTheEnd : Obligations.OutChangesOnlyAtTheEnd := by
  intro s t hstep hout
  obtain ⟨-, hturn⟩ | ⟨e, rest, hinputs, hevent⟩ := step_cases hstep
  · obtain ⟨hidle, hlast⟩ := engineTurn_out hturn hout
    exact ⟨hidle, hlast.imp_right .inl⟩
  obtain ⟨-, hturn⟩ | ⟨rfl, rfl⟩ | ⟨off, -, rfl⟩ | ⟨off, v, -, hwrite⟩ := hevent
  · obtain ⟨hidle, hlast⟩ := engineTurn_out hturn hout
    exact ⟨hidle, hlast.imp_right .inl⟩
  · exact ⟨rfl, .inr (.inr ⟨rest, hinputs⟩)⟩
  · obtain ⟨a, hread⟩ := regRead_eq_respond off { s with inputs := rest }
    exact absurd (by rw [hread, respond_out]) hout
  · exact absurd (regWrite_out hwrite) hout

/-! ### The operands while busy (10_state.md R21, 20_memory.md R71) -/

theorem sameOperands_refl (s : State) : sameOperands s s := ⟨rfl, rfl, rfl, rfl, rfl, rfl⟩

/-- Of the engine's steps only the Exec step of CLEAR changes an operand. -/
theorem engineTurn_sameOperands {s t : State} (h : engineTurn s = .next t)
    (hclear : ¬ (s.phase = .exec ∧ decode s.op = .ok .clear)) : sameOperands s t := by
  obtain ⟨-, rfl⟩ | ⟨i, hdecode, hstep⟩ := engineTurn_cases h
  · exact sameOperands_refl _
  obtain ⟨-, rfl⟩ | ⟨-, rfl⟩ | ⟨-, _, _, rfl⟩ | ⟨-, rfl⟩ | ⟨hp, ⟨rfl, -⟩ | ⟨-, v, rfl⟩⟩ := hstep
  · exact ⟨keySchedStep_key s, keySchedStep_blk s, keySchedStep_opb s, keySchedStep_seg s, keySchedStep_segp s,
      keySchedStep_skidx s⟩
  · exact sameOperands_refl s
  · exact sameOperands_refl s
  · exact sameOperands_refl s
  · exact absurd ⟨hp, hdecode⟩ hclear
  · exact sameOperands_refl s

/-- Settles O54: a host access while busy is answered and can change BUSYERR only. -/
theorem operandsAreStableWhileBusy : Obligations.OperandsAreStableWhileBusy := by
  intro s t hstep hbusy hreset hclear
  obtain ⟨-, hturn⟩ | ⟨e, rest, hinputs, hevent⟩ := step_cases hstep
  · exact engineTurn_sameOperands hturn hclear
  obtain ⟨-, hturn⟩ | ⟨rfl, -⟩ | ⟨off, -, rfl⟩ | ⟨off, v, -, hwrite⟩ := hevent
  · exact engineTurn_sameOperands (s := { s with inputs := rest }) hturn hclear
  · exact absurd hinputs (hreset rest)
  · obtain ⟨a, hread⟩ := regRead_eq_respond off { s with inputs := rest }
    rw [hread]
    exact sameOperands_refl s
  · obtain ⟨a, b, rfl⟩ := regWrite_busy (s := { s with inputs := rest }) hbusy hwrite
    exact sameOperands_refl s

/-! ### ERR (60_exceptions.md R289) -/

theorem writeData_err (r : HostReg) (v : Word) (s : State) : (writeData r v s).err = s.err := by
  cases r <;> rfl

/-- A write that sets ERR is a write to CMD while idle. -/
theorem regWrite_sets_err {off : Nat} {v : Word} {s t : State} (h : regWrite off v s = .next t) (hs : s.err = false)
    (ht : t.err = true) : s.phase = .idle ∧ off = regOffset .cmd := by
  have hne : t.err ≠ s.err := by simp [hs, ht]
  obtain ⟨-, rfl⟩ | ⟨-, rfl⟩ | ⟨-, rfl⟩ | ⟨hidle, hreg, -⟩ | ⟨-, r, -, -, -, rfl⟩ := regWrite_cases h
  · exact absurd rfl hne
  · exact absurd rfl hne
  · exact absurd rfl hne
  · exact ⟨hidle, regOffset_of_regAt hreg⟩
  · exact absurd (writeData_err r v _) hne

theorem engineTurn_err {s t : State} (h : engineTurn s = .next t) (hs : s.err = false) : t.err = false := by
  obtain ⟨-, rfl⟩ | ⟨i, -, hstep⟩ := engineTurn_cases h
  · exact hs
  obtain ⟨-, rfl⟩ | ⟨-, rfl⟩ | ⟨-, _, _, rfl⟩ | ⟨-, rfl⟩ | ⟨-, ⟨-, rfl⟩ | ⟨-, v, rfl⟩⟩ := hstep
  · rw [keySchedStep_err, hs]
  · exact hs
  · exact hs
  · exact hs
  · rfl
  · exact hs

/-- Settles O55: no other event sets ERR. -/
theorem errorsAriseOnlyAtCommandWrites : Obligations.ErrorsAriseOnlyAtCommandWrites := by
  intro s t hstep hs ht
  have hne {u : State} (hu : u.err = false) : u ≠ t := by
    rintro rfl
    rw [hu] at ht
    cases ht
  obtain ⟨-, hturn⟩ | ⟨e, rest, hinputs, hevent⟩ := step_cases hstep
  · exact absurd rfl (hne (engineTurn_err hturn hs))
  obtain ⟨-, hturn⟩ | ⟨-, hreset⟩ | ⟨off, -, hread⟩ | ⟨off, v, rfl, hwrite⟩ := hevent
  · exact absurd rfl (hne (engineTurn_err hturn hs))
  · exact absurd hreset.symm (hne rfl)
  · obtain ⟨a, hrespond⟩ := regRead_eq_respond off { s with inputs := rest }
    exact absurd (hread.trans hrespond).symm (hne hs)
  · obtain ⟨hidle, rfl⟩ := regWrite_sets_err hwrite hs ht
    exact ⟨v, rest, hidle, hinputs⟩

/-! ### PHASE and r of a busy engine (45_feistel_driver.md R240) -/

/-- Where a turn of the busy engine goes from a phase and a round index, with the command word op latched. -/
def turnSuccessor (op : Word) (phase : Phase) (r : BitVec 4) : Phase × BitVec 4 :=
  match phase with
  | .keySched => (if fieldOpc op = 0x01 then .initial else .idle, r)
  | .exec => (.idle, if decode op = .ok .clear then 0 else r)
  | .idle | .initial | .round | .finalSwap => encryptSuccessor (phase, r)

theorem engineTurn_position {s t : State} (hbusy : s.phase ≠ .idle) (h : engineTurn s = .next t) :
    (t.phase, t.rIdx) = turnSuccessor s.op s.phase s.rIdx := by
  obtain ⟨hidle, -⟩ | ⟨i, hdecode, hstep⟩ := engineTurn_cases h
  · exact absurd hidle hbusy
  obtain ⟨hp, rfl⟩ | ⟨hp, rfl⟩ | ⟨hp, _, _, rfl⟩ | ⟨hp, rfl⟩ | ⟨hp, ⟨rfl, rfl⟩ | ⟨hi, v, rfl⟩⟩ := hstep
  · rw [hp, keySchedStep_phase, keySchedStep_rIdx]
    rfl
  · rw [hp]
    rfl
  · rw [encryptSuccessor_advanceRound _ hp, hp]
    rfl
  · rw [hp]
    rfl
  · rw [hp, turnSuccessor, if_pos hdecode]
    rfl
  · have hother : decode s.op ≠ .ok .clear := fun hclear => hi (Except.ok.inj (hdecode.symm.trans hclear))
    rw [hp, turnSuccessor, if_neg hother]
    rfl

/-- Settles O56: the successor is a function of PHASE, r and OP. -/
theorem phasesIgnoreTheData : Obligations.PhasesIgnoreTheData := by
  intro s s' t t' hbusy hphase hr hop hinputs hinputs' hstep hstep'
  have hturn : engineTurn s = .next t := (nextEvent_nil hinputs).symm.trans hstep
  have hturn' : engineTurn s' = .next t' := (nextEvent_nil hinputs').symm.trans hstep'
  have hposition : (t'.phase, t'.rIdx) = (t.phase, t.rIdx) := by
    rw [engineTurn_position hbusy hturn, engineTurn_position (hphase ▸ hbusy) hturn', hphase, hr, hop]
  exact Prod.mk.inj hposition

end Sys2Proof.Machine
end

section
/-! Whole commands (spec/45_feistel_driver.md R231, R242, R243; spec/70_reset_and_hazards.md R330, R331; spec/20_memory.md R71,
R73). The state of an ENCRYPT after n engine steps is written out once; the host's accesses change nothing of it but BUSYERR, so
every interleaving ends in the same elements. The count for every command is last. -/

namespace Sys2Proof.Machine

open Sys2Proof.Safety (verdict runsIn verdict_congr runsIn_ne_idle runsIn_accept execStepOf_progress
  take_succ_keySchedule)
open Sys2Proof.Claims (answered afterEvent rejectedWith acceptedForSchedule sameOperands encryptAllowed atCommandWrite
  engineSteps phaseAfter plainRounds plainEncrypt)

/-! ### The rounds of an ENCRYPT (45_feistel_driver.md R235, R236) -/

/-- L and R after k rounds, from BLK and KEY. -/
def halvesAfter (s : State) (k : Nat) : Half × Half :=
  plainRounds ((keySchedule s.key).toList.take k) ((initialHalves s.blk).l, (initialHalves s.blk).r)

theorem plainRounds_append (ks : List Subkey) (k : Subkey) (x : Half × Half) :
    plainRounds (ks ++ [k]) x = plainRound k (plainRounds ks x) := by
  induction ks generalizing x with
  | nil => rfl
  | cons k' rest ih => exact ih _

/-- One more round is the plain round under the next subkey. -/
theorem halvesAfter_succ (s : State) (r : BitVec 4) :
    halvesAfter s (r.toNat + 1) = plainRound ((keySchedule s.key)[r.toNat]'r.isLt) (halvesAfter s r.toNat) := by
  rw [halvesAfter, take_succ_keySchedule, plainRounds_append, halvesAfter]

/-- After sixteen rounds the final block of the halves is the ciphertext. -/
theorem finalBlock_halvesAfter (s : State) :
    finalBlock ⟨(halvesAfter s 16).1, (halvesAfter s 16).2⟩ = plainEncrypt s.blk s.key := by
  have hall : (keySchedule s.key).toList.take 16 = (keySchedule s.key).toList :=
    List.take_of_length_le (keySchedule_length s.key).le
  rw [halvesAfter, hall]
  rfl

/-! ### The states of an ENCRYPT (45_feistel_driver.md R231, R234 to R236) -/

/-- The ENCRYPT that was accepted in s, after n engine steps: the rounds are the steps from the third to the eighteenth. -/
def encryptState (s : State) (n : Nat) : State :=
  { acceptedForSchedule (encode .encrypt) s with
    out := if n < 19 then s.out else plainEncrypt s.blk s.key
    sk := if n = 0 then s.sk else if n < 19 then keySchedule s.key else Vector.replicate 16 0
    l := if n < 2 then s.l else if n < 19 then (halvesAfter s (n - 2)).1 else 0
    r := if n < 2 then s.r else if n < 19 then (halvesAfter s (n - 2)).2 else 0
    phase := (phaseAfter s.rIdx n).1
    rIdx := (phaseAfter s.rIdx n).2
    done := decide (19 ≤ n) }

/-- The same in the rounds, k of them being done. -/
theorem encryptState_rounds (s : State) {k : Nat} (hk : k ≤ 16) :
    encryptState s (k + 2) =
      { acceptedForSchedule (encode .encrypt) s with
        sk := keySchedule s.key
        l := (halvesAfter s k).1
        r := (halvesAfter s k).2
        phase := (phaseAfter s.rIdx (k + 2)).1
        rIdx := (phaseAfter s.rIdx (k + 2)).2 } := by
  have hlt : k + 2 < 19 := by omega
  have hge : ¬ 19 ≤ k + 2 := by omega
  simp only [encryptState, if_pos hlt, decide_eq_false hge, if_neg (show ¬ k + 2 = 0 by omega),
    if_neg (show ¬ k + 2 < 2 by omega), Nat.add_sub_cancel]
  rfl

theorem phaseAfter_round (r₀ r : BitVec 4) : phaseAfter r₀ (r.toNat + 2) = (.round, r) := by
  have hlt : r.toNat < 16 := r.isLt
  rw [phaseAfter, if_neg (by omega), if_neg (by omega), if_pos (by omega), Nat.add_sub_cancel, BitVec.ofNat_toNat,
    BitVec.setWidth_eq]

theorem encryptState_busy (s : State) {n : Nat} (hn : n < 19) : (encryptState s n).phase ≠ .idle :=
  runsIn_ne_idle (runsIn_phaseAfter s.rIdx hn)

/-! ### The engine's steps of an ENCRYPT -/

section
variable {s : State} (hallowed : encryptAllowed s)
include hallowed

/-- The round of index r takes the halves after r rounds to those after r + 1. -/
theorem exec_encryptState_round (r : BitVec 4) :
    exec .encrypt (encryptState s (r.toNat + 2)) = .next (encryptState s (r.toNat + 3)) := by
  have hlt : r.toNat < 16 := r.isLt
  have hposition := phaseAfter_round s.rIdx r
  have hphase : (encryptState s (r.toNat + 2)).phase = .round := congrArg Prod.fst hposition
  have hsubkey : currentSubkey (encryptState s (r.toNat + 2)) = (keySchedule s.key)[r.toNat]'r.isLt := by
    rw [encryptState_rounds s hlt.le]
    simp only [currentSubkey, hposition]
  have hhalves : ((encryptState s (r.toNat + 2)).l, (encryptState s (r.toNat + 2)).r) = halvesAfter s r.toNat := by
    rw [encryptState_rounds s hlt.le]
  rw [exec_encrypt_round_plain hphase hallowed, hsubkey, hhalves, ← halvesAfter_succ]
  have hnext := encryptSuccessor_advanceRound
    ⟨(halvesAfter s (r.toNat + 1)).1, (halvesAfter s (r.toNat + 1)).2⟩ hphase
  rw [show ((encryptState s (r.toNat + 2)).phase, (encryptState s (r.toNat + 2)).rIdx) =
    phaseAfter s.rIdx (r.toNat + 2) from rfl, encryptSuccessor_phaseAfter s.rIdx (by omega)] at hnext
  rw [encryptState_rounds s (show r.toNat + 1 ≤ 16 by omega), ← hnext, encryptState_rounds s hlt.le]
  rfl

/-- The transition of an ENCRYPT whose checks held, from each of its nineteen positions. -/
theorem exec_encryptState {n : Nat} (hn : n < 19) :
    exec .encrypt (encryptState s n) = .next (encryptState s (n + 1)) := by
  match n with
  | 0 =>
    rw [exec_keySched .encrypt rfl, keySchedStep_of_opc_encrypt rfl]
    rfl
  | 1 => exact exec_encrypt_initial rfl
  | k + 2 =>
    by_cases hround : k < 16
    · have hindex : (BitVec.ofNat 4 k).toNat = k := Nat.mod_eq_of_lt hround
      have hstep := exec_encryptState_round hallowed (BitVec.ofNat 4 k)
      rwa [hindex] at hstep
    · obtain rfl : k = 16 := by omega
      rw [exec_encrypt_finalSwap rfl, finalSwapStep, encryptState_rounds s le_rfl, finalBlock_halvesAfter]
      rfl

/-! ### The events during an ENCRYPT -/

/-- A turn of the engine is one more step. -/
theorem step_encryptState_engine {n : Nat} {rest : List Event} (hn : n < 19) (hinputs : s.inputs = .engine :: rest) :
    step (encryptState s n) = .next (encryptState (afterEvent rest s) (n + 1)) := by
  have hdecode : decode (encryptState s n).op = .ok .encrypt := decodeOfEncode .encrypt rfl
  rw [step_engine_busy (encryptState_busy s hn) hdecode hinputs]
  exact exec_encryptState (s := afterEvent rest s) hallowed hn

/-- k turns in a row are k more steps. -/
theorem run_encryptState_engine {n k : Nat} {rest : List Event} (hn : n + k ≤ 19)
    (hinputs : s.inputs = List.replicate k .engine ++ rest) :
    Host.Core.run core k (encryptState s n) = .next (encryptState (afterEvent rest s) (n + k)) := by
  induction k generalizing n s with
  | zero =>
    rw [run_zero, show afterEvent rest s = s by rw [afterEvent, ← show s.inputs = rest from hinputs]]
    rfl
  | succ k ih =>
    have hstep := step_encryptState_engine hallowed (n := n) (by omega) hinputs
    have hrun := ih (s := afterEvent (List.replicate k .engine ++ rest) s) hallowed (n := n + 1) (by omega) rfl
    rw [show n + (k + 1) = n + 1 + k by omega]
    exact (run_succ_of_step hstep k).trans hrun

end

/-- What a host access while busy leaves: the elements of s but BUSYERR, with rest still to come. -/
def HostAccessed (rest : List Event) (s t : State) : Prop :=
  ∃ responses busyErr, t = { s with inputs := rest, responses := responses, busyErr := busyErr }

theorem HostAccessed.trans {rest rest' : List Event} {s t u : State} (h : HostAccessed rest s t)
    (h' : HostAccessed rest' t u) : HostAccessed rest' s u := by
  obtain ⟨_, _, rfl⟩ := h
  obtain ⟨responses, busyErr, rfl⟩ := h'
  exact ⟨responses, busyErr, rfl⟩

theorem HostAccessed.inputs_eq {rest : List Event} {s t : State} (h : HostAccessed rest s t) : t.inputs = rest := by
  obtain ⟨_, _, rfl⟩ := h
  rfl

theorem HostAccessed.allowed {rest : List Event} {s t : State} (h : HostAccessed rest s t)
    (hallowed : encryptAllowed s) : encryptAllowed t := by
  obtain ⟨_, _, rfl⟩ := h
  exact hallowed

/-- Such accesses leave an ENCRYPT at its step. -/
theorem HostAccessed.exists_encryptState {rest : List Event} {s t : State} {n : Nat}
    (h : HostAccessed rest (encryptState s n) t) : ∃ u, HostAccessed rest s u ∧ t = encryptState u n := by
  obtain ⟨responses, busyErr, rfl⟩ := h
  exact ⟨_, ⟨responses, busyErr, rfl⟩, rfl⟩

/-- Whatever the host accesses while busy is answered, and BUSYERR can change (20_memory.md R71). -/
theorem step_host_busy {s : State} {e : Event} {rest : List Event} (hbusy : s.phase ≠ .idle) (hengine : e ≠ .engine)
    (hreset : e ≠ .reset) (hinputs : s.inputs = e :: rest) : ∃ t, step s = .next t ∧ HostAccessed rest s t := by
  rw [step, nextEvent_cons hinputs]
  cases e with
  | engine => exact absurd rfl hengine
  | reset => exact absurd rfl hreset
  | hostRead off =>
    obtain ⟨a, hread⟩ := regRead_eq_respond off { s with inputs := rest }
    exact ⟨_, rfl, _, s.busyErr, hread⟩
  | hostWrite off v =>
    obtain ⟨t, hwrite⟩ := Safety.regWrite_progress off v { s with inputs := rest }
    obtain ⟨a, b, ht⟩ := regWrite_busy (s := { s with inputs := rest }) hbusy hwrite
    exact ⟨t, hwrite, _, b, ht⟩

/-- Whatever the events but resets, an ENCRYPT has made as many steps as the engine had turns. -/
theorem run_encryptState_events {s : State} (hallowed : encryptAllowed s) {n : Nat} {es rest : List Event}
    (hreset : ∀ e ∈ es, e ≠ .reset) (hn : n + es.count .engine < 19) (hinputs : s.inputs = es ++ rest) :
    ∃ u, HostAccessed rest s u ∧
      Host.Core.run core es.length (encryptState s n) = .next (encryptState u (n + es.count .engine)) := by
  induction es generalizing n s with
  | nil => exact ⟨s, ⟨s.responses, s.busyErr, by rw [← show s.inputs = rest from hinputs]⟩, rfl⟩
  | cons e es ih =>
    have htail : ∀ e' ∈ es, e' ≠ .reset := fun e' he' => hreset e' (List.mem_cons_of_mem _ he')
    by_cases hengine : e = .engine
    · subst hengine
      rw [List.count_cons_self] at hn ⊢
      have hstep := step_encryptState_engine hallowed (n := n) (by omega) hinputs
      obtain ⟨u, hu, hrun⟩ := ih (s := afterEvent (es ++ rest) s) hallowed htail (n := n + 1) (by omega) rfl
      have htaken : HostAccessed (es ++ rest) s (afterEvent (es ++ rest) s) := ⟨s.responses, s.busyErr, rfl⟩
      rw [show n + (es.count .engine + 1) = n + 1 + es.count .engine by omega]
      exact ⟨u, htaken.trans hu, (run_succ_of_step hstep _).trans hrun⟩
    · rw [List.count_cons_of_ne hengine] at hn ⊢
      have hbusy : (encryptState s n).phase ≠ .idle := encryptState_busy s (by omega)
      obtain ⟨t, hstep, ht⟩ := step_host_busy hbusy hengine (hreset e List.mem_cons_self) hinputs
      obtain ⟨v, hv, rfl⟩ := ht.exists_encryptState
      obtain ⟨u, hu, hrun⟩ := ih (hv.allowed hallowed) htail hn hv.inputs_eq
      exact ⟨u, hv.trans hu, (run_succ_of_step hstep _).trans hrun⟩

/-! ### The statements on ENCRYPT as a whole -/

/-- A run goes on from the state that its first part answers. -/
theorem run_add_of_run {s t : State} {k : Nat} (h : Host.Core.run core k s = .next t) (m : Nat) :
    Host.Core.run core (k + m) s = Host.Core.run core m t := by
  induction k generalizing s with
  | zero =>
    cases h
    rw [Nat.zero_add]
  | succ k ih =>
    cases hstep : step s with
    | next u =>
      have hrun : Host.Core.run core k u = .next t := (run_succ_of_step hstep k).symm.trans h
      rw [Nat.add_right_comm]
      exact (run_succ_of_step hstep (k + m)).trans (ih hrun)
    | fault r =>
      have hcore : core.step s = .fault r := hstep
      simp [Host.Core.run, hcore] at h
    | refused r =>
      have hcore : core.step s = .refused r := hstep
      simp [Host.Core.run, hcore] at h

/-- After nineteen steps an ENCRYPT is over (45_feistel_driver.md R242). -/
theorem encryptState_nineteen {s : State} (hidle : s.phase = .idle) :
    encryptState s 19 =
      { s with
        out := plainEncrypt s.blk s.key, sk := Vector.replicate 16 0, l := 0, r := 0, rIdx := 0,
        done := true, err := false, errCode := .none, skValid := false, op := 0x00000001 } := by
  simp only [hidle]
  rfl

/-- The accepted ENCRYPT, no engine step made. -/
theorem step_encrypt_write_eq {s : State} {rest : List Event} (hidle : s.phase = .idle) (hallowed : encryptAllowed s)
    (hinputs : s.inputs = .hostWrite 0x00 0x00000001 :: rest) :
    step s = .next (encryptState (answered .ok rest s) 0) :=
  step_encrypt_write ⟨hidle, hinputs⟩ hallowed

/-- Settles O45: the acceptance and nineteen turns. -/
theorem encryptTakesNineteenSteps : Obligations.EncryptTakesNineteenSteps := by
  intro s rest hidle hallowed hinputs
  have hrun := run_encryptState_engine (s := answered .ok (List.replicate 19 .engine ++ rest) s) hallowed (n := 0)
    (by decide) rfl
  refine ((run_succ_of_step (step_encrypt_write_eq hidle hallowed hinputs) 19).trans hrun).trans ?_
  exact congrArg Host.Outcome.next (encryptState_nineteen hidle)

/-- Settles O48: eighteen steps between host accesses, then the last one. -/
theorem encryptUnderEveryInterleaving : Obligations.EncryptUnderEveryInterleaving := by
  intro s es rest hidle hallowed hreset hcount hinputs
  have hstart := step_encrypt_write_eq hidle hallowed hinputs
  obtain ⟨u, hu, hrun⟩ := run_encryptState_events (s := answered .ok (es ++ .engine :: rest) s) hallowed (n := 0) hreset
    (by omega) rfl
  rw [hcount] at hrun
  have hlast := step_encryptState_engine (hu.allowed hallowed) (n := 18) (by decide) hu.inputs_eq
  have hend := (run_succ_of_step hstart _).trans ((run_add_of_run hrun 1).trans (run_succ_of_step hlast 0))
  obtain ⟨_, _, rfl⟩ := hu
  exact ⟨_, hend, rfl, sameOperands_refl s, rfl, rfl, rfl, rfl, rfl, rfl, rfl, rfl, rfl, rfl⟩

/-- Settles O49: the exact end states of the two runs have the ciphertext of the same BLK and KEY. -/
theorem encryptIgnoresEarlierState : Obligations.EncryptIgnoresEarlierState := by
  intro s s' rest rest' hidle hidle' hallowed hblk hkey hseg hsegp hinputs hinputs'
  have hallowed' : encryptAllowed s' := by
    rwa [encryptAllowed, ← hseg, ← hsegp]
  refine ⟨_, _, encryptTakesNineteenSteps s rest hidle hallowed hinputs,
    encryptTakesNineteenSteps s' rest' hidle' hallowed' hinputs', ?_⟩
  simp only [hblk, hkey]

/-! ### The engine steps of every command (70_reset_and_hazards.md R330) -/

/-- The last step of a command with one engine step: KSCHED's schedule step, or the Exec step. -/
theorem exec_only_turn {i : Instr} {u : State} (hencrypt : i ≠ .encrypt) (hverdict : verdict i u = none)
    (hruns : runsIn i u.phase) (hop : u.op = encode i) (herr : u.err = false) :
    ∃ t, exec i u = .next t ∧ t.phase = .idle ∧ t.err = false ∧ t.inputs = u.inputs ∧ (t.done = true ↔ i ≠ .clear) := by
  cases hphase : u.phase with
  | keySched =>
    rw [hphase] at hruns
    obtain rfl : i = .ksched := hruns.resolve_left hencrypt
    have hother : u.op.toNat % 256 ≠ 1 := by
      rw [hop]
      decide
    refine ⟨_, exec_keySched .ksched hphase, ?_⟩
    rw [keySchedStep_of_opc_ne_encrypt hother]
    exact ⟨rfl, herr, rfl, by simp⟩
  | exec =>
    rw [hphase] at hruns
    obtain ⟨-, hksched⟩ := hruns
    obtain ⟨t, hstep⟩ := execStepOf_progress hencrypt hksched hverdict
    refine ⟨t, (exec_eq_transact i u).trans ((transact_exec hphase).trans hstep), ?_⟩
    obtain ⟨rfl, rfl⟩ | ⟨hclear, v, rfl⟩ := execStepOf_next hstep
    · exact ⟨rfl, rfl, rfl, by simp⟩
    · exact ⟨rfl, herr, rfl, by simpa using hclear⟩
  | idle => rw [hphase] at hruns; exact hruns.elim
  | initial | round | finalSwap => rw [hphase] at hruns; exact absurd hruns hencrypt

/-- The write of a command whose checks hold accepts it: it is latched and runs, its checks hold still, and ERR is 0. -/
theorem step_accept {s : State} {i : Instr} {rest : List Event} (hdecode : decode (encode i) = .ok i)
    (hwrite : atCommandWrite (encode i) rest s) (hverdict : verdict i s = none) :
    ∃ u, step s = .next u ∧ u.op = encode i ∧ u.err = false ∧ u.inputs = rest ∧ runsIn i u.phase ∧
      verdict i u = none := by
  rw [step_commandWrite_of_ok hwrite hdecode, exec_eq_transact]
  obtain ⟨hidle, -⟩ := hwrite
  have hsame : verdict i (answered .ok rest s) = verdict i s := verdict_congr i rfl rfl
  rw [transact_idle (s := answered .ok rest s) hidle, hsame, hverdict]
  exact ⟨_, rfl, rfl, rfl, rfl, runsIn_accept i _, (verdict_congr i rfl rfl).trans hverdict⟩

/-- The turn of the engine that is the last step of a command with one engine step. -/
theorem step_only_turn {i : Instr} {u : State} {rest : List Event} (hencrypt : i ≠ .encrypt)
    (hdecode : decode u.op = .ok i) (hverdict : verdict i u = none) (hruns : runsIn i u.phase) (herr : u.err = false)
    (hinputs : u.inputs = .engine :: rest) :
    ∃ t, step u = .next t ∧ t.phase = .idle ∧ t.err = false ∧ t.inputs = rest ∧ (t.done = true ↔ i ≠ .clear) := by
  obtain ⟨-, hword⟩ := encode_of_decode hdecode
  have hsame : verdict i (afterEvent rest u) = verdict i u := verdict_congr i rfl rfl
  rw [step_engine_busy (runsIn_ne_idle hruns) hdecode hinputs]
  exact exec_only_turn (u := afterEvent rest u) hencrypt (hsame.trans hverdict) hruns hword.symm herr

/-- A command other than ENCRYPT is busy once accepted, and over after one turn of the engine. -/
theorem finishes_after_one_turn {s : State} {i : Instr} {rest : List Event} (hencrypt : i ≠ .encrypt)
    (hdecode : decode (encode i) = .ok i) (hwrite : atCommandWrite (encode i) (.engine :: rest) s)
    (hverdict : verdict i s = none) :
    ∃ u t, Host.Core.run core 1 s = .next u ∧ u.phase ≠ .idle ∧ Host.Core.run core 2 s = .next t ∧ t.phase = .idle ∧
      t.err = false ∧ t.inputs = rest ∧ (t.done = true ↔ i ≠ .clear) := by
  obtain ⟨u, hstep, hop, herr, hinputs, hruns, hstill⟩ := step_accept hdecode hwrite hverdict
  obtain ⟨t, hturn, hend⟩ := step_only_turn hencrypt (hop ▸ hdecode) hstill hruns herr hinputs
  exact ⟨u, t, run_succ_of_step hstep 0, runsIn_ne_idle hruns,
    (run_succ_of_step hstep 1).trans (run_succ_of_step hturn 0), hend⟩

/-- An accepted ENCRYPT is busy until its nineteenth engine step. -/
theorem encrypt_busy_before_nineteen {s : State} {rest : List Event} {n : Nat} (hn : n < 19)
    (hwrite : atCommandWrite 0x00000001 (List.replicate 19 .engine ++ rest) s) (hallowed : encryptAllowed s) :
    ∃ u, Host.Core.run core (n + 1) s = .next u ∧ u.phase ≠ .idle := by
  obtain ⟨hidle, hinputs⟩ := hwrite
  have hevents : List.replicate 19 Event.engine ++ rest =
      List.replicate n .engine ++ (List.replicate (19 - n) .engine ++ rest) := by
    rw [← List.append_assoc, List.replicate_append_replicate, show n + (19 - n) = 19 by omega]
  have hrun := run_encryptState_engine (s := answered .ok (List.replicate 19 Event.engine ++ rest) s) hallowed (n := 0)
    (k := n) (rest := List.replicate (19 - n) Event.engine ++ rest) (by omega) hevents
  exact ⟨_, (run_succ_of_step (step_encrypt_write_eq hidle hallowed hinputs) n).trans hrun,
    encryptState_busy _ (by omega)⟩

/-- Settles O47: what is dropped, what is rejected, the one turn of most commands, and the nineteen of ENCRYPT. -/
theorem everyCommandFinishes : Obligations.EveryCommandFinishes := by
  refine ⟨fun s w rest hbusy hinputs => ?_,
    fun s i rest hwf hidle hinputs => ⟨fun code hinvalid => ?_, fun hverdict => ?_⟩⟩
  · obtain ⟨hdropped, -⟩ := busyWritesAreDropped s 0x00 w rest hinputs
    exact hdropped (by decide) (by decide) hbusy
  · exact step_commandWrite_of_invalid ⟨hidle, hinputs⟩ (decodeOfEncode i hwf) hinvalid
  by_cases hencrypt : i = .encrypt
  · subst hencrypt
    have hallowed : encryptAllowed s := verdict_encrypt_eq_none_iff.mp hverdict
    refine ⟨fun n hn => encrypt_busy_before_nineteen hn ⟨hidle, hinputs⟩ hallowed, ?_⟩
    exact ⟨_, encryptTakesNineteenSteps s rest hidle hallowed hinputs, hidle, rfl, rfl, by simp⟩
  · have hsteps : engineSteps i = 1 := if_neg hencrypt
    rw [hsteps] at hinputs ⊢
    obtain ⟨u, t, hrun, hbusy, hlast⟩ :=
      finishes_after_one_turn hencrypt (decodeOfEncode i hwf) ⟨hidle, hinputs⟩ hverdict
    refine ⟨fun n hn => ?_, t, hlast⟩
    obtain rfl : n = 0 := by omega
    exact ⟨u, hrun, hbusy⟩

end Sys2Proof.Machine
end
